-- ==== Sys2Proof/Word.lean ====
section
/-! DEFINITION. The words, levels and byte buffers the block works on (R8, R24). -/

namespace Sys2Proof

/-- A byte: 8 bits, bit 0 least significant (R8). -/
abbrev Byte := BitVec 8

/-- A 32-bit operand or result field (R24, R25). -/
abbrev Word32 := BitVec 32

/-- A 64-bit nanosecond count (R24, R38). -/
abbrev Word64 := BitVec 64

/-- A pin level, electrical and not logical (R8): `true` is high voltage (1), `false` is low voltage (0). -/
abbrev Level := Bool

/-- A byte buffer (TXBUF or RXBUF, R60): its listed bytes as (index, byte) cells, indexes strictly rising, no cell
holding the byte an unlisted index reads as. -/
abbrev Memory := List Host.Cell

/-- Interface mode (R2, R28): asynchronous single data rate, or toggle DDR. -/
inductive Mode where
  | async
  | toggle
  deriving DecidableEq, Repr

/-- Direction of a group of pins, seen from the block (R23). -/
inductive Dir where
  | inp
  | out
  deriving DecidableEq, Repr

end Sys2Proof
end

