-- ==== Sys2Proof/Syntax.lean ====
section
/-! DEFINITION. The request record (the operand fields of R24, the format `REQ` of R90) and `Instr`, one constructor per
row of spec/opcode_table.json (R92), each with the operands that row reads. -/

namespace Sys2Proof

/-- `ADDR[0..7]`: the eight address bytes, in issue order (R24, R100). -/
abbrev AddrArray := Vector Byte 8

/-- A request (R90): the selector `OP` and the operand fields of R24 beside it. The fields are not packed into a word:
how they travel is the OPEN parameter `HostTransport` (D1). -/
structure Request where
  op : Byte
  arg0 : Byte
  arg1 : Byte
  addr : AddrArray
  alen : BitVec 4
  count : Word32
  flags : Byte
  ccyc : BitVec 2
  timeout : Word64
  tAssert : Word64
  tComplete : Word64
  loops : Word32
  txbuf : Memory
  deriving DecidableEq, Repr

/-- Eight zero address bytes. -/
def AddrArray.zero : AddrArray := #v[0, 0, 0, 0, 0, 0, 0, 0]

/-- Every operand field 0: the value of R45, and of every field a request does not name (95_test_vectors.md). -/
def Request.zero : Request :=
  { op := 0, arg0 := 0, arg1 := 0, addr := .zero, alen := 0, count := 0, flags := 0, ccyc := 0, timeout := 0,
    tAssert := 0, tComplete := 0, loops := 0, txbuf := [] }

/-- The 26 operations (R92). An operand of a constructor is an operand field its row reads; TXBUF and `MODE` are read
from the state. `bytewise = some c` stands for `FLAGS.BYTEWISE` = 1 with `CCYC` = c (read only then), `limit = some t`
for `FLAGS.TIMEOUT_EN` = 1 with `TIMEOUT` = t (read only then). -/
inductive Instr where
  /-- IDLE, R120 -/
  | idle
  /-- SEND_COMMAND, R121: ARG0 -/
  | sendCommand (b : Byte)
  /-- SEND_ADDRESSES, R122: ADDR, ALEN -/
  | sendAddresses (a : AddrArray) (n : BitVec 4)
  /-- SEND_DATA, R123 and R124: COUNT -/
  | sendData (c : Word32)
  /-- READ_DATA, R125: COUNT -/
  | readData (c : Word32)
  /-- WAIT_READY, R128: FLAGS.TIMEOUT_EN, TIMEOUT -/
  | waitReady (limit : Option Word64)
  /-- ENABLE_ERASE, R130 -/
  | enableErase
  /-- DISABLE_ERASE, R131 -/
  | disableErase
  /-- MEASURE_BUSY, R200: T_ASSERT, T_COMPLETE -/
  | measureBusy (ta tc : Word64)
  /-- RESET, R150 -/
  | reset
  /-- READ_ID, R151: ARG0, COUNT -/
  | readId (b : Byte) (c : Word32)
  /-- READ_UNIQUE_ID, R152 -/
  | readUniqueId
  /-- READ_PARAMETER_PAGE, R153 and R154: FLAGS.JEDEC, FLAGS.BYTEWISE, CCYC -/
  | readParameterPage (jedec : Bool) (bytewise : Option (BitVec 2))
  /-- PAGE_READ, R160 and R161: ADDR, ALEN, COUNT, FLAGS.PREFIX00, FLAGS.BYTEWISE, CCYC -/
  | pageRead (a : AddrArray) (n : BitVec 4) (c : Word32) (pre00 : Bool) (bytewise : Option (BitVec 2))
  /-- CHANGE_READ_COLUMN, R162: ADDR, ALEN -/
  | changeReadColumn (a : AddrArray) (n : BitVec 4)
  /-- PAGE_PROGRAM, R170: ADDR, ALEN, COUNT, ARG1 -/
  | pageProgram (a : AddrArray) (n : BitVec 4) (c : Word32) (k : Byte)
  /-- BLOCK_ERASE, R172: ADDR, ALEN -/
  | blockErase (a : AddrArray) (n : BitVec 4)
  /-- SET_FEATURES, R180: ARG0 -/
  | setFeatures (f : Byte)
  /-- GET_FEATURES, R182: ARG0 -/
  | getFeatures (f : Byte)
  /-- READ_STATUS, R184 -/
  | readStatus
  /-- PARTIAL_ERASE, R190: ADDR, ALEN, LOOPS -/
  | partialErase (a : AddrArray) (n : BitVec 4) (l : Word32)
  /-- TLC_SUBPAGE_PROGRAM, R192: ARG0, ADDR, ALEN, COUNT -/
  | tlcSubpageProgram (x : Byte) (a : AddrArray) (n : BitVec 4) (c : Word32)
  /-- PARTIAL_PROGRAM, R194: ADDR, ALEN, COUNT, ARG1, LOOPS -/
  | partialProgram (a : AddrArray) (n : BitVec 4) (c : Word32) (k : Byte) (l : Word32)
  /-- T_READ, R203: ADDR, ALEN, COUNT, FLAGS.PREFIX00, FLAGS.FETCH, T_ASSERT, T_COMPLETE -/
  | tRead (a : AddrArray) (n : BitVec 4) (c : Word32) (pre00 fetch : Bool) (ta tc : Word64)
  /-- T_PROGRAM, R204: ADDR, ALEN, COUNT, ARG1, T_ASSERT, T_COMPLETE -/
  | tProgram (a : AddrArray) (n : BitVec 4) (c : Word32) (k : Byte) (ta tc : Word64)
  /-- T_ERASE, R205: ADDR, ALEN, T_ASSERT, T_COMPLETE -/
  | tErase (a : AddrArray) (n : BitVec 4) (ta tc : Word64)
  deriving DecidableEq, Repr

/-- The three families of R91, the high nibble of `OP`. -/
inductive Family where
  | primitive
  | dispatcher
  | timed
  deriving DecidableEq, Repr

/-- The family of an operation (R91, R92). -/
def Instr.family : Instr → Family
  | .idle => .primitive
  | .sendCommand _ => .primitive
  | .sendAddresses _ _ => .primitive
  | .sendData _ => .primitive
  | .readData _ => .primitive
  | .waitReady _ => .primitive
  | .enableErase => .primitive
  | .disableErase => .primitive
  | .measureBusy _ _ => .primitive
  | .reset => .dispatcher
  | .readId _ _ => .dispatcher
  | .readUniqueId => .dispatcher
  | .readParameterPage _ _ => .dispatcher
  | .pageRead _ _ _ _ _ => .dispatcher
  | .changeReadColumn _ _ => .dispatcher
  | .pageProgram _ _ _ _ => .dispatcher
  | .blockErase _ _ => .dispatcher
  | .setFeatures _ => .dispatcher
  | .getFeatures _ => .dispatcher
  | .readStatus => .dispatcher
  | .partialErase _ _ _ => .dispatcher
  | .tlcSubpageProgram _ _ _ _ => .dispatcher
  | .partialProgram _ _ _ _ _ => .dispatcher
  | .tRead _ _ _ _ _ _ _ => .timed
  | .tProgram _ _ _ _ _ _ => .timed
  | .tErase _ _ _ _ => .timed

end Sys2Proof
end

