-- ==== Sys2Proof/Decode.lean ====
section
/-! DEFINITION. The decoder and the encoder of the request encoding (R90 to R94). The decoder is total on any request and
rejects by name; it reads from the record only the fields R92 lists for the operation. Operand RANGES are not its
business: they are checked at acceptance, after it (R226). -/

namespace Sys2Proof

/-- Why the decoder rejects a request: the first two checks of R226. -/
inductive DecodeError where
  /-- check (1): `OP` is none of the 26 codes (R93, V1) -/
  | illegalOp (op : Byte)
  /-- check (2): one of `FLAGS[7:5]` is set (R93, V2) -/
  | reservedFlags (flags : Byte)
  deriving DecidableEq, Repr

/-- `FLAGS[0]` JEDEC (R91, R94). -/
def Request.jedec (r : Request) : Bool := r.flags.getLsbD 0
/-- `FLAGS[1]` BYTEWISE (R91, R94). -/
def Request.bytewise (r : Request) : Bool := r.flags.getLsbD 1
/-- `FLAGS[2]` PREFIX00 (R91, R94). -/
def Request.pre00 (r : Request) : Bool := r.flags.getLsbD 2
/-- `FLAGS[3]` FETCH (R91, R94). -/
def Request.fetch (r : Request) : Bool := r.flags.getLsbD 3
/-- `FLAGS[4]` TIMEOUT_EN (R91, R94). -/
def Request.timeoutEn (r : Request) : Bool := r.flags.getLsbD 4
/-- `FLAGS[7:5]`, reserved, must be 0 (R91, R93). -/
def Request.reservedFlags (r : Request) : BitVec 3 := r.flags.extractLsb' 5 3

/-- `CCYC`, read only when `FLAGS.BYTEWISE` = 1 (R92, R93). -/
def Request.columnCycles (r : Request) : Option (BitVec 2) := if r.bytewise then some r.ccyc else none

/-- `TIMEOUT`, read only when `FLAGS.TIMEOUT_EN` = 1 (R92, R128). -/
def Request.limit (r : Request) : Option Word64 := if r.timeoutEn then some r.timeout else none

/-- The operation a code selects, with the operands its row reads (R92); `none` for a code of no row. -/
def decodeOp (r : Request) : Option Instr :=
  match r.op.toNat with
  | 0x00 => some .idle
  | 0x01 => some (.sendCommand r.arg0)
  | 0x02 => some (.sendAddresses r.addr r.alen)
  | 0x03 => some (.sendData r.count)
  | 0x04 => some (.readData r.count)
  | 0x05 => some (.waitReady r.limit)
  | 0x06 => some .enableErase
  | 0x07 => some .disableErase
  | 0x08 => some (.measureBusy r.tAssert r.tComplete)
  | 0x10 => some .reset
  | 0x11 => some (.readId r.arg0 r.count)
  | 0x12 => some .readUniqueId
  | 0x13 => some (.readParameterPage r.jedec r.columnCycles)
  | 0x14 => some (.pageRead r.addr r.alen r.count r.pre00 r.columnCycles)
  | 0x15 => some (.changeReadColumn r.addr r.alen)
  | 0x16 => some (.pageProgram r.addr r.alen r.count r.arg1)
  | 0x17 => some (.blockErase r.addr r.alen)
  | 0x18 => some (.setFeatures r.arg0)
  | 0x19 => some (.getFeatures r.arg0)
  | 0x1A => some .readStatus
  | 0x1B => some (.partialErase r.addr r.alen r.loops)
  | 0x1C => some (.tlcSubpageProgram r.arg0 r.addr r.alen r.count)
  | 0x1D => some (.partialProgram r.addr r.alen r.count r.arg1 r.loops)
  | 0x20 => some (.tRead r.addr r.alen r.count r.pre00 r.fetch r.tAssert r.tComplete)
  | 0x21 => some (.tProgram r.addr r.alen r.count r.arg1 r.tAssert r.tComplete)
  | 0x22 => some (.tErase r.addr r.alen r.tAssert r.tComplete)
  | _ => none

/-- The decoder: the checks (1) and (2) of R226, in that order, then the operation of R92. -/
def decode (r : Request) : Except DecodeError Instr :=
  match decodeOp r with
  | none => .error (.illegalOp r.op)
  | some i => if r.reservedFlags = 0 then .ok i else .error (.reservedFlags r.flags)

/-- The request whose bits are the table's `nbits` bits `w` (the 8-bit selector `OP`) and whose every other field is 0.
The table gives a row no bits but `OP` (R90). -/
def requestOfWord (nbits w : Nat) : Option Request :=
  if nbits = 8 ∧ w < 256 then some { Request.zero with op := BitVec.ofNat 8 w } else none

/-- The instruction the decoder reads from an opcode-table word. -/
def decodeTableWord (nbits w : Nat) : Option Instr :=
  match requestOfWord nbits w with
  | none => none
  | some r =>
    match decode r with
    | .ok i => some i
    | .error _ => none

/-! ## The encoder -/

/-- The operation code of R92. -/
def Instr.opcode : Instr → Byte
  | .idle => 0x00
  | .sendCommand _ => 0x01
  | .sendAddresses _ _ => 0x02
  | .sendData _ => 0x03
  | .readData _ => 0x04
  | .waitReady _ => 0x05
  | .enableErase => 0x06
  | .disableErase => 0x07
  | .measureBusy _ _ => 0x08
  | .reset => 0x10
  | .readId _ _ => 0x11
  | .readUniqueId => 0x12
  | .readParameterPage _ _ => 0x13
  | .pageRead _ _ _ _ _ => 0x14
  | .changeReadColumn _ _ => 0x15
  | .pageProgram _ _ _ _ => 0x16
  | .blockErase _ _ => 0x17
  | .setFeatures _ => 0x18
  | .getFeatures _ => 0x19
  | .readStatus => 0x1A
  | .partialErase _ _ _ => 0x1B
  | .tlcSubpageProgram _ _ _ _ => 0x1C
  | .partialProgram _ _ _ _ _ => 0x1D
  | .tRead _ _ _ _ _ _ _ => 0x20
  | .tProgram _ _ _ _ _ _ => 0x21
  | .tErase _ _ _ _ => 0x22

/-- The flag byte of R91 from its five defined bits; the reserved bits are 0. -/
def encodeFlags (jedec bytewise pre00 fetch timeoutEn : Bool) : Byte :=
  (if jedec then 0x01 else 0) ||| (if bytewise then 0x02 else 0) ||| (if pre00 then 0x04 else 0) |||
    (if fetch then 0x08 else 0) ||| (if timeoutEn then 0x10 else 0)

/-- The request that asks for an instruction: its code and the fields its row reads (R92), every other field 0. -/
def encode (i : Instr) : Request :=
  let z := { Request.zero with op := i.opcode }
  match i with
  | .idle => z
  | .sendCommand b => { z with arg0 := b }
  | .sendAddresses a n => { z with addr := a, alen := n }
  | .sendData c => { z with count := c }
  | .readData c => { z with count := c }
  | .waitReady limit =>
      { z with flags := encodeFlags false false false false limit.isSome, timeout := limit.getD 0 }
  | .enableErase => z
  | .disableErase => z
  | .measureBusy ta tc => { z with tAssert := ta, tComplete := tc }
  | .reset => z
  | .readId b c => { z with arg0 := b, count := c }
  | .readUniqueId => z
  | .readParameterPage jedec bytewise =>
      { z with flags := encodeFlags jedec bytewise.isSome false false false, ccyc := bytewise.getD 0 }
  | .pageRead a n c pre00 bytewise =>
      { z with addr := a, alen := n, count := c, flags := encodeFlags false bytewise.isSome pre00 false false,
               ccyc := bytewise.getD 0 }
  | .changeReadColumn a n => { z with addr := a, alen := n }
  | .pageProgram a n c k => { z with addr := a, alen := n, count := c, arg1 := k }
  | .blockErase a n => { z with addr := a, alen := n }
  | .setFeatures f => { z with arg0 := f }
  | .getFeatures f => { z with arg0 := f }
  | .readStatus => z
  | .partialErase a n l => { z with addr := a, alen := n, loops := l }
  | .tlcSubpageProgram x a n c => { z with arg0 := x, addr := a, alen := n, count := c }
  | .partialProgram a n c k l => { z with addr := a, alen := n, count := c, arg1 := k, loops := l }
  | .tRead a n c pre00 fetch ta tc =>
      { z with addr := a, alen := n, count := c, flags := encodeFlags false false pre00 fetch false, tAssert := ta,
               tComplete := tc }
  | .tProgram a n c k ta tc =>
      { z with addr := a, alen := n, count := c, arg1 := k, tAssert := ta, tComplete := tc }
  | .tErase a n ta tc => { z with addr := a, alen := n, tAssert := ta, tComplete := tc }

end Sys2Proof
end

