-- ==== Sys2Proof/Config.lean ====
section
/-! DEFINITION. What an implementation fixes (the pin map) and the free values: the samples the environment answers
(R76, R38) and the bytes of RXBUF that the spec leaves unspecified (V7). -/

namespace Sys2Proof

/-- Level of the n-th R/B# sample, a draw under no law (R76). DESIGN CHOICE: a free value (log 10). -/
opaque Config.rbDraw : Nat → Level

/-- Byte of the n-th DQ sample, a draw under no law (R76). DESIGN CHOICE: a free value (log 10). -/
opaque Config.dqDraw : Nat → Byte

/-- What the n-th clock read would give before the law of R38 is applied. DESIGN CHOICE: a free value (log 5, log 10). -/
opaque Config.clkDraw : Nat → Word64

/-- Byte that RXBUF holds at index `k` at or beyond RXLEN when `n` DQ samples have been taken: any value (V7, D43).
DESIGN CHOICE: a free value (log 9). -/
opaque Config.rxUnspecified : Nat → Nat → Byte

/-- The 17 signals of the block (R22). -/
inductive Signal where
  | dq (line : Fin 8)
  | wp | cle | ale | re | we | ce | rb | dqs | dqsc
  deriving DecidableEq, Repr

/-- All 17 signals (R22, C11). -/
def Signal.all : List Signal :=
  [.dq 0, .dq 1, .dq 2, .dq 3, .dq 4, .dq 5, .dq 6, .dq 7, .wp, .cle, .ale, .re, .we, .ce, .rb, .dqs, .dqsc]

/-- `PinMap` (R6, D31): the GPIO index of each signal. An OPEN parameter: no number of it is in the spec. -/
structure PinMap where
  dq : Vector Nat 8
  wp : Nat
  cle : Nat
  ale : Nat
  re : Nat
  we : Nat
  ce : Nat
  rb : Nat
  dqs : Nat
  dqsc : Nat
  deriving DecidableEq, Repr

/-- The GPIO index of a signal. -/
def PinMap.index (pm : PinMap) : Signal → Nat
  | .dq line => pm.dq[line]
  | .wp => pm.wp
  | .cle => pm.cle
  | .ale => pm.ale
  | .re => pm.re
  | .we => pm.we
  | .ce => pm.ce
  | .rb => pm.rb
  | .dqs => pm.dqs
  | .dqsc => pm.dqsc

/-- The constraint on `PinMap` (D31): injective, and DQ0 to DQ7 below 32. -/
def PinMap.valid (pm : PinMap) : Bool :=
  decide ((Signal.all.map pm.index).Nodup) && pm.dq.toList.all (fun k => decide (k < 32))

end Sys2Proof
end

