-- ==== Sys2Proof/Machine/Commands.lean ====
section
/-! DEFINITION. Every literal of the spec, each named once (U11): command bytes (R98), fixed address bytes (R99), fixed
counts, timeouts (R276), result codes (R220). -/

namespace Sys2Proof.Machine

/-! ## Command bytes (R98) -/

/-- reset, and the abort of a partial operation -/
def cmdReset : Byte := 0xFF
/-- read ID -/
def cmdReadId : Byte := 0x90
/-- read unique ID -/
def cmdReadUniqueId : Byte := 0xED
/-- read parameter page -/
def cmdReadParameterPage : Byte := 0xEC
/-- read, first cycle, and the optional prefix -/
def cmdRead : Byte := 0x00
/-- read, confirm -/
def cmdReadConfirm : Byte := 0x30
/-- change read column, first cycle -/
def cmdChangeColumn : Byte := 0x05
/-- change read column, confirm -/
def cmdChangeColumnConfirm : Byte := 0xE0
/-- program, first cycle -/
def cmdProgram : Byte := 0x80
/-- program, confirm; TLC subpage 3 -/
def cmdProgramConfirm : Byte := 0x10
/-- program, confirm for TLC subpages 1 and 2 -/
def cmdProgramConfirmTlc : Byte := 0x1A
/-- erase, first cycle -/
def cmdErase : Byte := 0x60
/-- erase, confirm -/
def cmdEraseConfirm : Byte := 0xD0
/-- set features -/
def cmdSetFeatures : Byte := 0xEF
/-- get features -/
def cmdGetFeatures : Byte := 0xEE
/-- read status -/
def cmdReadStatus : Byte := 0x70

/-! ## Fixed address bytes and counts -/

/-- address byte of READ_UNIQUE_ID (R99) -/
def addrUniqueId : Byte := 0x00
/-- address byte of the ONFI parameter page (R99) -/
def addrOnfiPage : Byte := 0x00
/-- address byte of the JEDEC parameter page (R99, C6) -/
def addrJedecPage : Byte := 0x40
/-- bytes of the unique ID (R152) -/
def uniqueIdBytes : Nat := 32
/-- bytes of the parameter page (R153) -/
def parameterPageBytes : Nat := 256
/-- bytes of a feature register (R102) -/
def featureBytes : Nat := 4
/-- `MAX_ADDR` (R6) -/
def maxAddr : Nat := 8

/-! ## Timeouts in ns (R6, R276) -/

/-- `T_GUARD`: 5 ms -/
def tGuard : Word64 := 5000000
/-- default of `T_ASSERT`: 5 ms -/
def tAssertDefault : Word64 := 5000000
/-- default of `T_COMPLETE`: 1 s -/
def tCompleteDefault : Word64 := 1000000000

/-! ## Result codes (R220) -/

/-- completed; for WAIT_READY: READY -/
def resOk : Byte := 0
/-- device not responding -/
def resDeviceNotResponding : Byte := 2
/-- out-of-range argument -/
def resOutOfRange : Byte := 5
/-- the TIMEOUT result of WAIT_READY -/
def resTimeout : Byte := 7

end Sys2Proof.Machine
end

