-- ==== Sys2Proof/Machine/State.lean ====
section
/-! DEFINITION. Everything the spec gives the block (10_state.md), as plain data: pins, operand fields, result fields,
sequencer, configuration, clock; and, as the model's own fields, the bus trace of R10, the samples the environment will
answer (R76) and the host's next moves (R20). -/

namespace Sys2Proof.Machine

/-! ## Pins (R22, R23) -/

/-- The output pins a `W` step writes (R9): the six control outputs and the two strobes. -/
inductive Pin where
  | ce | we | re | cle | ale | wp | dqs | dqsc
  deriving DecidableEq, Repr

/-- The pin output latches and directions (R23): the level last written to each pin. -/
structure Pins where
  ce : Level
  we : Level
  re : Level
  cle : Level
  ale : Level
  wp : Level
  dqs : Level
  dqsc : Level
  dqOut : Byte
  dqDir : Dir
  strobeDir : Dir
  deriving DecidableEq, Repr

/-! ## Events and steps (R9, R10) -/

/-- The six named bus timing waits (R6, R28). -/
inductive TimingParam where
  | tWB | tADL | tCCS | tRR | tRHW | tWHR
  deriving DecidableEq, Repr

/-- One event of the bus trace (R9): what one step of the engine did on the pins. -/
inductive Event where
  /-- `W(P,v)` -/
  | w (p : Pin) (v : Level)
  /-- `DQCLR(m)` -/
  | dqClr (m : Byte)
  /-- `DQSET(m)` -/
  | dqSet (m : Byte)
  /-- `DIR(DQ,d)` -/
  | dirDQ (d : Dir)
  /-- `DIR(STROBE,d)` -/
  | dirStrobe (d : Dir)
  /-- `RB?=v` -/
  | rb (v : Level)
  /-- `DQ?=b` -/
  | dq (b : Byte)
  /-- `CLK?=t` -/
  | clk (t : Word64)
  /-- `DLY(t)`: the wait's name and its value in ns -/
  | dly (p : TimingParam) (t : Word32)
  /-- `SPIN(n)` -/
  | spin (n : Word32)
  deriving DecidableEq, Repr

/-- The polling loops on R/B# (R125, R128, R202, R200): what each waits for and what bounds it. -/
inductive Poll where
  /-- until R/B# is 1, no bound: WAIT_READY without timeout (R128) and the wait inside READ_DATA (R125) -/
  | untilReady
  /-- until R/B# is 1, bounded: a WAIT_READY request with `TIMEOUT_EN` (R128) -/
  | waitBound (limit : Word64)
  /-- until R/B# is 1, bounded by `T_GUARD`: the prologue of a timed operation, which raised WP or not (R202) -/
  | guardReady (raisedWp : Bool)
  /-- until R/B# is 0: phase A of MEASURE_BUSY (R200), alone or inside an operation that raised WP or not -/
  | busyAssert (limit : Word64) (raisedWp : Bool)
  /-- until R/B# is 1: phase B of MEASURE_BUSY (R200) -/
  | busyComplete (limit : Word64)
  deriving DecidableEq, Repr

/-- One entry of the flat list of steps an operation expands to (R27). The entries down to `clkBusyEnd` are the steps of
R9; those after it are the assignments the pseudocode writes between steps, which are no bus steps (R132). -/
inductive Micro where
  /-- `W(P,v)` -/
  | w (p : Pin) (v : Level)
  /-- `W(P, NOT S.P)` (R124) -/
  | wInv (p : Pin)
  /-- `DQCLR(m)` -/
  | dqClr (m : Byte)
  /-- `DQSET(m)` -/
  | dqSet (m : Byte)
  /-- `DQCLR(NOT TXBUF[k])`, the byte read at this step (R64) -/
  | txClr (k : Nat)
  /-- `DQSET(TXBUF[k])` -/
  | txSet (k : Nat)
  /-- `DIR(DQ,d)` -/
  | dirDQ (d : Dir)
  /-- `DIR(STROBE,d)` -/
  | dirStrobe (d : Dir)
  /-- `b <- DQ?`, then `RXBUF[RXLEN] <- b ; RXLEN <- RXLEN + 1` (R126, R127) -/
  | sampleDQ
  /-- `DLY(tX)` with the value latched at acceptance (R74) -/
  | dly (p : TimingParam) (t : Word32)
  /-- `SPIN(n)` -/
  | spin (n : Word32)
  /-- `t0 <- CLK?` (R128, R200) -/
  | clkStart
  /-- `v <- RB?` of a polling loop -/
  | pollRb (k : Poll)
  /-- `t <- CLK?` of a bounded polling loop, and the comparison after it -/
  | pollClk (k : Poll)
  /-- `busy_start <- CLK?` (R200) -/
  | clkBusyStart
  /-- `t_end <- CLK?`, then `REC.duration_ns <- t_end - busy_start` (R200) -/
  | clkBusyEnd
  /-- `S.IDX = k` at the head of a burst loop's body (R27, R122) -/
  | setIdx (k : Nat)
  /-- `REC.busy_detected <- 1` (R200) -/
  | busySeen
  /-- `FETCHED <- 1` (R203) -/
  | setFetched
  /-- the three assignments of the epilogue from the byte just appended to RXBUF (R207) -/
  | decodeStatus
  /-- the end of the operation: `RES <- code`, `S.RUN <- READY` (R132 (4), R232) -/
  | done (code : Byte)
  deriving DecidableEq, Repr

/-! ## Result and configuration fields -/

/-- `S.RUN` (R27). -/
inductive RunState where
  | ready
  | running
  deriving DecidableEq, Repr

/-- The operation-timing record `REC` (R26). -/
structure TimingRecord where
  durationNs : Word64
  rawStatusByte : Byte
  readyFlag : Bool
  passFlag : Bool
  busyDetected : Bool
  timedOut : Bool
  deriving DecidableEq, Repr

/-- `REC` with every field 0 (R29, R45). -/
def TimingRecord.zero : TimingRecord :=
  { durationNs := 0, rawStatusByte := 0, readyFlag := false, passFlag := false, busyDetected := false,
    timedOut := false }

/-- The six timing parameters in ns (R28). -/
structure Timing where
  tWB : Word32
  tADL : Word32
  tCCS : Word32
  tRR : Word32
  tRHW : Word32
  tWHR : Word32
  deriving DecidableEq, Repr

/-- The value of a timing parameter by its name. -/
def Timing.get (t : Timing) : TimingParam → Word32
  | .tWB => t.tWB
  | .tADL => t.tADL
  | .tCCS => t.tCCS
  | .tRR => t.tRR
  | .tRHW => t.tRHW
  | .tWHR => t.tWHR

/-- One of the eight writes of IDLE (R120, D5): what it sets. -/
inductive IdleWrite where
  /-- CE# to 1 -/
  | ce
  /-- WE# to 1 -/
  | we
  /-- RE# to 1 -/
  | re
  /-- CLE to 0 -/
  | cle
  /-- ALE to 0 -/
  | ale
  /-- DQ direction to OUT -/
  | dqDir
  /-- DQ to 0x00 -/
  | dq
  /-- strobe direction to IN -/
  | strobeDir
  deriving DecidableEq, Repr

/-- `IdleOrder` (R6, D5): the order of the eight writes inside IDLE. -/
abbrev IdleOrder := List IdleWrite

/-- The listing order of R120 and D5, the value R6 gives `IdleOrder`. -/
def IdleOrder.listing : IdleOrder := [.ce, .we, .re, .cle, .ale, .dqDir, .dq, .strobeDir]

/-! ## Environment and host (inputs) -/

/-- The environment's answers (R76, R38). A list holds the samples it will give next, in order; a counter says how many
of that kind have been taken. When a list is empty the sample is the free value of Config at the counter (log 10). -/
structure Environment where
  rb : List Level
  rbN : Nat
  dq : List Byte
  dqN : Nat
  clk : List Word64
  clkN : Nat
  deriving DecidableEq, Repr

/-- A move of the host (R20 (b), R28, R250). -/
inductive HostMove where
  /-- write the operand fields and present the request (R132) -/
  | request (r : Request)
  /-- write `MODE` (R28) -/
  | setMode (m : Mode)
  /-- write the six timing parameters (R28) -/
  | setTiming (t : Timing)
  /-- cause `BLOCK_RESET` (R250), at any time -/
  | blockReset
  /-- the model's own (log 1): how many engine steps a step of the machine performs before the outside acts again -/
  | setSlice (n : Option Nat)
  deriving DecidableEq, Repr

/-! ## The state -/

/-- The block, with its inputs. Each field names the rule that gives it. -/
structure State where
  /-- `S.RUN` (R27) -/
  run : RunState
  /-- `S.SEQ` (R27) -/
  seq : Nat
  /-- `S.IDX` (R27) -/
  idx : Nat
  /-- model's own: the steps the running operation has still to perform (R27, log 3) -/
  todo : List Micro
  /-- model's own: the local `t0` of R128 and R200 (log 3) -/
  tStart : Word64
  /-- model's own: the local `busy_start` of R200 (log 3) -/
  busyStart : Word64
  /-- pin latches and directions (R22, R23) -/
  pins : Pins
  /-- operand fields (R24) -/
  opnd : Request
  /-- `RES` (R25, R220) -/
  res : Byte
  /-- `RXLEN` (R25) -/
  rxlen : Word32
  /-- `RXBUF` (R25, R43) -/
  rxbuf : Memory
  /-- `REC` (R26) -/
  record : TimingRecord
  /-- `FETCHED` (R25) -/
  fetched : Bool
  /-- `MODE` (R28) -/
  mode : Mode
  /-- the six timing parameters (R28) -/
  timing : Timing
  /-- `MAX_BURST`, an OPEN parameter (R6, log 6) -/
  maxBurst : Nat
  /-- `IdleOrder`, a configuration switch (R6, D5, V12, log 17) -/
  idleOrder : IdleOrder
  /-- `S.CLK_LAST` (R38) -/
  clkLast : Word64
  /-- model's own: the bus trace T, oldest event first (R10, log 4) -/
  trace : List Event
  /-- model's own: the environment's answers (R76, log 10) -/
  env : Environment
  /-- model's own: the host's next moves (R20, log 2) -/
  host : List HostMove
  /-- model's own: the most engine steps that settling performs at once; `none`: until the block waits (log 1) -/
  slice : Option Nat
  deriving DecidableEq, Repr

/-- Why a step faults. -/
inductive Fault where
  /-- A DQ sample while DQ are outputs. Raised by `Sys2Proof.Machine.perform` only; R9: `DQ?` is "only legal when
  `S.DQ_dir = IN`". No operation of R92 raises it. Safe: the model stops where the spec gives the sample no value. -/
  | dqSampledWhileDriving
  deriving DecidableEq, Repr

/-- Why an instruction is refused. (A refusal of the spec, code 5, is no `Refusal`: it is a next state, R132.) -/
inductive Refusal where
  /-- No meaning for the instruction. Raised by no arm of `exec`. Safe. -/
  | notModelled (mnemonic : String)
  /-- A request handed to a meaning while `S.RUN` = RUNNING: "outside the model" (R132), treatment "refuse" (V10).
  Raised by `Sys2Proof.Machine.request` only; `step` never presents one then. Safe. -/
  | requestWhileRunning
  deriving DecidableEq, Repr

/-- The answer of a meaning or a step. -/
abbrev Answer := Host.Outcome State Fault Refusal

/-! ## Reset -/

/-- The pins after reset (R45): the idle state of R30 with WP# low, strobe latches 0 and 1. -/
def Pins.reset : Pins :=
  { ce := true, we := true, re := true, cle := false, ale := false, wp := false, dqs := false, dqsc := true,
    dqOut := 0x00, dqDir := .out, strobeDir := .inp }

/-- Timing parameters all 0. DESIGN CHOICE (log 7): R45 says only "configured values". -/
def Timing.zero : Timing := { tWB := 0, tADL := 0, tCCS := 0, tRR := 0, tRHW := 0, tWHR := 0 }

/-- No sample is scripted: every sample is a free value (log 10). -/
def Environment.free : Environment := { rb := [], rbN := 0, dq := [], dqN := 0, clk := [], clkN := 0 }

/-- The machine right after reset (R45, R252): READY, pins idle, WP# low, `MODE` = ASYNC, operands and results zero,
`IdleOrder` the listing order (R6).
`maxBurst` (log 6), `timing` (log 7), `clkLast` (log 5) and the model's own fields are DESIGN CHOICES. -/
def State.reset : State :=
  { run := .ready, seq := 0, idx := 0, todo := [], tStart := 0, busyStart := 0, pins := .reset, opnd := .zero,
    res := 0, rxlen := 0, rxbuf := [], record := .zero, fetched := false, mode := .async, timing := .zero,
    maxBurst := 4320, idleOrder := .listing, clkLast := 0, trace := [], env := .free, host := [], slice := none }

end Sys2Proof.Machine
end

