-- ==== Sys2Proof/Machine/Flags.lean ====
section
/-! DEFINITION. The decoding of the device's status byte (R35, R103) and the derived predicate of the timing record
(R26, R201). -/

namespace Sys2Proof.Machine

/-- `fail = st[0]` (R103). -/
def statusFail (st : Byte) : Bool := st.getLsbD 0

/-- `ready = st[6]` (R103), the source's accessor `ready()`. -/
def statusReady (st : Byte) : Bool := st.getLsbD 6

/-- `pass_flag = NOT st[0]` (R103), the source's accessor `pass()`. -/
def statusPass (st : Byte) : Bool := !statusFail st

/-- `write_protect_inactive = st[7]` (R103), the source's accessor `write_protect_inactive()`. -/
def statusWriteProtectInactive (st : Byte) : Bool := st.getLsbD 7

/-- The record after the epilogue has read the status byte `st` (R207): bits 1 to 5 and 7 reach `raw_status_byte`
only (D30). -/
def TimingRecord.withStatus (r : TimingRecord) (st : Byte) : TimingRecord :=
  { r with rawStatusByte := st, readyFlag := statusReady st, passFlag := statusPass st }

/-- `succeeded` (R26, R201): a function of `REC` the host evaluates, no stored bit. -/
def TimingRecord.succeeded (r : TimingRecord) : Bool :=
  r.busyDetected && r.readyFlag && r.passFlag && !r.timedOut

end Sys2Proof.Machine
end

