-- ==== Sys2Proof/Machine/Memory.lean ====
section
/-! DEFINITION. The byte buffers TXBUF and RXBUF (R60, R64, R65) as canonical lists of cells. -/

namespace Sys2Proof

/-- What an unlisted index reads as. DESIGN CHOICE 0x00 (log 8, log 9). -/
def Memory.background : Byte := 0x00

/-- The byte at an index. -/
def Memory.read : Memory → Nat → Byte
  | [], _ => Memory.background
  | (k, b) :: rest, a => if a = k then b else Memory.read rest a

/-- The list with the cell at `a` holding `b`, the cells before and after it as they were. -/
def Memory.insert : Memory → Nat → Byte → Memory
  | [], a, b => [(a, b)]
  | (k, c) :: rest, a, b =>
      if a < k then (a, b) :: (k, c) :: rest
      else if a = k then (a, b) :: rest
      else (k, c) :: Memory.insert rest a b

/-- The list without the cell at `a`. -/
def Memory.erase : Memory → Nat → Memory
  | [], _ => []
  | (k, c) :: rest, a => if a = k then rest else (k, c) :: Memory.erase rest a

/-- Store a byte. Storing the background byte removes the cell, so that equal buffers are equal lists. -/
def Memory.write (m : Memory) (a : Nat) (b : Byte) : Memory :=
  if b = Memory.background then Memory.erase m a else Memory.insert m a b

/-- Store bytes at consecutive indexes. -/
def Memory.writeList : Memory → Nat → List Byte → Memory
  | m, _, [] => m
  | m, a, b :: bs => Memory.writeList (Memory.write m a b) (a + 1) bs

/-- The first `n` bytes (`TXBUF[0..n)`, R64). -/
def Memory.take (m : Memory) (n : Nat) : List Byte := (List.range n).map m.read

/-- The buffer that holds the listed bytes from index 0 on. -/
def Memory.ofBytes (bs : List Byte) : Memory := Memory.writeList [] 0 bs

/-- Every cell lies above `lo`, indexes rise strictly, no cell holds the background byte. -/
def Memory.wfFrom : Nat → Memory → Bool
  | _, [] => true
  | lo, (k, b) :: rest => decide (lo ≤ k) && decide (b ≠ Memory.background) && Memory.wfFrom (k + 1) rest

/-- The canonical form holds. -/
def Memory.wf (m : Memory) : Bool := Memory.wfFrom 0 m

end Sys2Proof
end

