-- ==== Sys2Proof/Machine/Operands.lean ====
section
/-! DEFINITION. Operand assembly (R100 to R102), the operand checks at acceptance and their order (R224, R226), and the
host's address mapping (R62, R109). -/

namespace Sys2Proof.Machine

/-! ## Bytes and addresses -/

/-- Byte `k` of a natural, `(v >> (8·k)) AND 0xFF` (R109 (b)). -/
def byteOf (v k : Nat) : Byte := BitVec.ofNat 8 (v >>> (8 * k))

/-- The first `n` bytes of a natural, least significant first (R66). -/
def littleEndian (n v : Nat) : List Byte := (List.range n).map (byteOf v)

/-- The natural whose bytes, least significant first, are the list (the decoding direction of R62). -/
def ofLittleEndian : List Byte → Nat
  | [] => 0
  | b :: bs => b.toNat + 256 * ofLittleEndian bs

/-- `ADDR[0..ALEN)`, in issue order (R100). -/
def addrBytes (a : AddrArray) (n : BitVec 4) : List Byte := a.toList.take n.toNat

/-- The column address bytes the bytewise variants build for column `col` (R101): bits at or above 8 × `CCYC` are
dropped. -/
def columnBytes (ccyc : BitVec 2) (col : Nat) : List Byte := littleEndian ccyc.toNat col

/-- The address byte of READ_PARAMETER_PAGE (R99, R153). -/
def parameterPageAddr (jedec : Bool) : Byte := if jedec then addrJedecPage else addrOnfiPage

/-- The confirm byte of TLC_SUBPAGE_PROGRAM (R192): 0x1A for subpages 1 and 2, else 0x10. -/
def tlcConfirm (subpage : Byte) : Byte :=
  if subpage = 1 ∨ subpage = 2 then cmdProgramConfirmTlc else cmdProgramConfirm

/-- A timeout operand of 0 selects the default (R200, D28). -/
def orDefault (t dflt : Word64) : Word64 := if t = 0 then dflt else t

/-! ## The host's address mapping (R62, R100): outside the block, stated by the spec as a law -/

/-- `row = block × pages_per_block + page`, on unbounded naturals (R62, R109 (a)). -/
def rowAddress (pagesPerBlock block page : Nat) : Nat := block * pagesPerBlock + page

/-- The address tuple of a page operation (R100): column bytes, then row bytes. -/
def pageTuple (columnCycles rowCycles col row : Nat) : List Byte :=
  littleEndian columnCycles col ++ littleEndian rowCycles row

/-- The address tuple of an erase (R100): the row bytes only. -/
def eraseTuple (rowCycles row : Nat) : List Byte := littleEndian rowCycles row

/-- The reverse of the page tuple: the row its bytes carry. -/
def rowOfTuple (columnCycles : Nat) (tuple : List Byte) : Nat := ofLittleEndian (tuple.drop columnCycles)

/-- The reverse of the host's mapping: (block, page) of a row. -/
def blockPageOfRow (pagesPerBlock row : Nat) : Nat × Nat := (row / pagesPerBlock, row % pagesPerBlock)

/-! ## Checks at acceptance -/

/-- The operand checks of R226 (3), in their order. All give code 5 (R93), so which one failed is not recorded (R220). -/
inductive OperandCheck where
  | arg0
  | alen
  | countBound
  | countParity
  | ccyc
  deriving DecidableEq, Repr

/-- `ARG0` in 1..3 (TLC_SUBPAGE_PROGRAM only). -/
def checkSubpage (x : Byte) : Option OperandCheck :=
  if x = 1 ∨ x = 2 ∨ x = 3 then none else some .arg0

/-- `ALEN` ≤ 8. -/
def checkAlen (n : BitVec 4) : Option OperandCheck := if n.toNat ≤ maxAddr then none else some .alen

/-- `COUNT` ≤ `MAX_BURST`. -/
def checkCount (s : State) (c : Word32) : Option OperandCheck :=
  if c.toNat ≤ s.maxBurst then none else some .countBound

/-- `COUNT` even for a TOGGLE-mode data burst (R67, D10). -/
def checkParity (s : State) (c : Word32) : Option OperandCheck :=
  if s.mode = .toggle ∧ c.toNat % 2 = 1 then some .countParity else none

/-- `CCYC` is 1 or 2, where it is read (bytewise requests). -/
def checkCcyc : Option (BitVec 2) → Option OperandCheck
  | none => none
  | some c => if c = 1 ∨ c = 2 then none else some .ccyc

/-- The first check that fails decides (R226). -/
def firstFailure : List (Option OperandCheck) → Option OperandCheck
  | [] => none
  | none :: rest => firstFailure rest
  | some c :: _ => some c

end Sys2Proof.Machine
end

