-- ==== Sys2Proof/Machine/Ops.lean ====
section
/-! DEFINITION. The engine: what one step of R9 does, the polling loops, the drawing of samples, acceptance, refusal,
the raising of an error (R232) and completion (R132), `BLOCK_RESET` (R250) and the host's moves. -/

namespace Sys2Proof.Machine

/-! ## Pins -/

/-- The level of an output pin. -/
def Pins.level (p : Pins) : Pin → Level
  | .ce => p.ce
  | .we => p.we
  | .re => p.re
  | .cle => p.cle
  | .ale => p.ale
  | .wp => p.wp
  | .dqs => p.dqs
  | .dqsc => p.dqsc

/-- `S.P <- v` (R9). -/
def Pins.write (p : Pins) (q : Pin) (v : Level) : Pins :=
  match q with
  | .ce => { p with ce := v }
  | .we => { p with we := v }
  | .re => { p with re := v }
  | .cle => { p with cle := v }
  | .ale => { p with ale := v }
  | .wp => { p with wp := v }
  | .dqs => { p with dqs := v }
  | .dqsc => { p with dqsc := v }

/-- `DQCLR(m)` (R9): one multi-bit clear. -/
def Pins.clearDq (p : Pins) (m : Byte) : Pins := { p with dqOut := p.dqOut &&& ~~~m }

/-- `DQSET(m)` (R9): one multi-bit set. -/
def Pins.setDq (p : Pins) (m : Byte) : Pins := { p with dqOut := p.dqOut ||| m }

/-- The idle state (R30). WP is not part of it (C8). -/
def Pins.isIdle (p : Pins) : Bool :=
  p.ce && p.we && p.re && !p.cle && !p.ale && (p.dqDir == .out) && (p.dqOut == 0x00) && (p.strobeDir == .inp)

/-- What an event does to the pins (R9): samples, waits and clock reads write none. -/
def Event.onPins (p : Pins) : Event → Pins
  | .w q v => p.write q v
  | .dqClr m => p.clearDq m
  | .dqSet m => p.setDq m
  | .dirDQ d => { p with dqDir := d }
  | .dirStrobe d => { p with strobeDir := d }
  | .rb _ => p
  | .dq _ => p
  | .clk _ => p
  | .dly _ _ => p
  | .spin _ => p

/-- The event of a step whose event does not depend on a sample; `none` for the sampling steps and for the entries that
are no steps of R9. `tx` is TXBUF, read at the step that drives a byte (R64). -/
def Micro.event (tx : Memory) (p : Pins) : Micro → Option Event
  | .w q v => some (.w q v)
  | .wInv q => some (.w q (!p.level q))
  | .dqClr m => some (.dqClr m)
  | .dqSet m => some (.dqSet m)
  | .txClr k => some (.dqClr (~~~(Memory.read tx k)))
  | .txSet k => some (.dqSet (Memory.read tx k))
  | .dirDQ d => some (.dirDQ d)
  | .dirStrobe d => some (.dirStrobe d)
  | .dly q t => some (.dly q t)
  | .spin n => some (.spin n)
  | .sampleDQ => none
  | .clkStart => none
  | .pollRb _ => none
  | .pollClk _ => none
  | .clkBusyStart => none
  | .clkBusyEnd => none
  | .setIdx _ => none
  | .busySeen => none
  | .setFetched => none
  | .decodeStatus => none
  | .done _ => none

/-! ## Events and samples -/

/-- Perform one event: its effect on the pins, one entry of the trace (R10), `S.SEQ` one further (R27). -/
def State.emit (e : Event) (s : State) : State :=
  { s with pins := e.onPins s.pins, trace := s.trace ++ [e], seq := s.seq + 1 }

/-- The R/B# level the environment answers next (R76). -/
def State.nextRb (s : State) : Level :=
  match s.env.rb with
  | v :: _ => v
  | [] => Config.rbDraw s.env.rbN

/-- The byte the environment answers to the next DQ sample (R76). -/
def State.nextDq (s : State) : Byte :=
  match s.env.dq with
  | b :: _ => b
  | [] => Config.dqDraw s.env.dqN

/-- What the next clock read would give before the law of R38. -/
def State.rawClk (s : State) : Word64 :=
  match s.env.clk with
  | t :: _ => t
  | [] => Config.clkDraw s.env.clkN

/-- The next clock read (R38): not less than the last one. -/
def State.nextClk (s : State) : Word64 :=
  if s.rawClk.toNat < s.clkLast.toNat then s.clkLast else s.rawClk

/-- `RB?`: the sample is taken and its event recorded. -/
def State.sampleRb (s : State) : State :=
  { s.emit (.rb s.nextRb) with env := { s.env with rb := s.env.rb.tail, rbN := s.env.rbN + 1 } }

/-- `CLK?`: the clock is read, `S.CLK_LAST` keeps the value (R38) and the event is recorded. -/
def State.readClk (s : State) : State :=
  { s.emit (.clk s.nextClk) with
    env := { s.env with clk := s.env.clk.tail, clkN := s.env.clkN + 1 }, clkLast := s.nextClk }

/-- `b <- DQ?`, then `RXBUF[RXLEN] <- b ; RXLEN <- RXLEN + 1` (R43, R65, R126). -/
def State.sampleDq (s : State) : State :=
  { s.emit (.dq s.nextDq) with
    env := { s.env with dq := s.env.dq.tail, dqN := s.env.dqN + 1 },
    rxbuf := Memory.write s.rxbuf s.rxlen.toNat s.nextDq, rxlen := s.rxlen + 1 }

/-- The byte of RXBUF the host reads at index `k` (R25, R43): at or beyond `RXLEN` any value (V7). -/
def State.rxByte (s : State) (k : Nat) : Byte :=
  if k < s.rxlen.toNat then Memory.read s.rxbuf k else Config.rxUnspecified s.env.dqN k

/-! ## Errors and completion -/

/-- The end of an operation (R132 (4)): `RES <- code`, `S.RUN <- READY`. No step of the bus. -/
def State.complete (code : Byte) (s : State) : State := { s with res := code, run := .ready, todo := [] }

/-- `W(WP, 0)` if the operation had raised WP (R206, R232 (1)). -/
def lowerWp (raisedWp : Bool) : List Micro := if raisedWp then [.w .wp false] else []

/-- Leave the operation early with a result code: WP low again if the operation raised it, then the two writes of R232
((2) `RES <- code`, (3) `S.RUN <- READY`). This is `raise` (R232) with code 2, the early path R206 (b) with code 0 and
the TIMEOUT result of WAIT_READY (R128) with code 7. There is no handler and nothing is saved, so there is no return
(R234). DESIGN CHOICE (log 3): R27 does not say whether the conditional `W(WP, 0)` lines of the early paths hold an index
of the flat list that `S.SEQ` counts. Here they hold none where they are not taken: `S.SEQ` is left at the step after the
loop's clock read, and a `W(WP, 0)` that is performed adds one like any step. -/
def State.leaveEarly (raisedWp : Bool) (code : Byte) (s : State) : State :=
  { s with todo := lowerWp raisedWp ++ [.done code] }

/-- A refusal at acceptance (R132 (1), R232): `RES <- 5` and nothing else changes. -/
def State.refuse (s : State) : State := { s with res := resOutOfRange }

/-- Acceptance (R132 (2)): the results are cleared, the sequencer starts at 0, and the operation has the steps `steps`
to perform. -/
def State.accept (steps : List Micro) (s : State) : State :=
  { s with res := resOk, rxlen := 0, record := .zero, fetched := false, run := .running, seq := 0, idx := 0,
           todo := steps }

/-! ## Polling loops -/

/-- The level a loop waits for. -/
def Poll.want : Poll → Level
  | .untilReady => true
  | .waitBound _ => true
  | .guardReady _ => true
  | .busyAssert _ _ => false
  | .busyComplete _ => true

/-- The bound of a loop, in ns; `none` when it has none. -/
def Poll.bound : Poll → Option Word64
  | .untilReady => none
  | .waitBound limit => some limit
  | .guardReady _ => some tGuard
  | .busyAssert limit _ => some limit
  | .busyComplete limit => some limit

/-- The clock read the bound counts from: `busy_start` in phase B, `t0` elsewhere. -/
def Poll.origin (s : State) : Poll → Word64
  | .untilReady => s.tStart
  | .waitBound _ => s.tStart
  | .guardReady _ => s.tStart
  | .busyAssert _ _ => s.tStart
  | .busyComplete _ => s.busyStart

/-- `elapsed ≥ bound`, on naturals (R109 (e), (f)). -/
def Poll.expired (k : Poll) (now : Word64) (s : State) : Bool :=
  match k.bound with
  | none => false
  | some limit => decide (limit.toNat ≤ now.toNat - (k.origin s).toNat)

/-- What a loop does when its bound is hit: WAIT_READY ends with TIMEOUT (R128); the guard raises code 2 (R202, R206
(a)); phase A leaves with the record all zero (R200, R206 (b)); phase B records `timed_out` and goes on (R200). -/
def Poll.onExpiry (k : Poll) (s : State) : State :=
  match k with
  | .untilReady => s
  | .waitBound _ => s.leaveEarly false resTimeout
  | .guardReady raisedWp => s.leaveEarly raisedWp resDeviceNotResponding
  | .busyAssert _ raisedWp => s.leaveEarly raisedWp resOk
  | .busyComplete _ => { s with record := { s.record with timedOut := true } }

/-- `v <- RB?` of the loop `k`; `s` has the steps after the loop in `todo`. On the wanted level the loop is left. Else an
unbounded loop goes back to this step, and a bounded one goes on to its clock read. `S.SEQ` counts the two steps of a
bounded loop's body and returns to its first step when the loop goes round (R27). DESIGN CHOICE (log 3): the clock read of
a bounded loop holds its index whether it is performed or not, so a loop left at its sample adds 2; R27 does not say. -/
def pollSample (k : Poll) (s : State) : State :=
  let t := s.sampleRb
  if s.nextRb = k.want then
    match k.bound with
    | none => t
    | some _ => { t with seq := s.seq + 2 }
  else
    match k.bound with
    | none => { t with todo := .pollRb k :: s.todo, seq := s.seq }
    | some _ => { t with todo := .pollClk k :: s.todo }

/-- `t <- CLK?` of the bounded loop `k`, and the comparison `t - t0 ≥ bound` after it (R128, R200). -/
def pollClock (k : Poll) (s : State) : State :=
  let t := s.readClk
  if k.expired s.nextClk s then k.onExpiry t
  else { t with todo := .pollRb k :: s.todo, seq := s.seq - 1 }

/-! ## One step of the engine -/

/-- Perform one entry of the flat list (R9, R27); `s` has the entries after it in `todo`. -/
def perform (m : Micro) (s : State) : Answer :=
  match m.event s.opnd.txbuf s.pins with
  | some e => .next (s.emit e)
  | none =>
    match m with
    | .sampleDQ => if s.pins.dqDir = .inp then .next s.sampleDq else .fault .dqSampledWhileDriving
    | .clkStart => .next { s.readClk with tStart := s.nextClk }
    | .pollRb k => .next (pollSample k s)
    | .pollClk k => .next (pollClock k s)
    | .clkBusyStart => .next { s.readClk with busyStart := s.nextClk }
    | .clkBusyEnd =>
        .next { s.readClk with record := { s.record with durationNs := s.nextClk - s.busyStart } }
    | .setIdx k => .next { s with idx := k }
    | .busySeen => .next { s with record := { s.record with busyDetected := true } }
    | .setFetched => .next { s with fetched := true }
    | .decodeStatus =>
        .next { s with record := s.record.withStatus (Memory.read s.rxbuf (s.rxlen.toNat - 1)) }
    | .done code => .next (s.complete code)
    | _ => .next s

/-- One step of the running engine: the next entry of its list; at the end of the list the operation is complete. -/
def engineStep (s : State) : Answer :=
  match s.todo with
  | [] => .next (s.complete resOk)
  | m :: rest => perform m { s with todo := rest }

/-- The next step samples R/B#. -/
def atRbSample : List Micro → Bool
  | .pollRb _ :: _ => true
  | _ => false

/-- The block is READY, or its next step samples R/B# and no sample is scripted: it waits for the outside (log 1). -/
def State.settled (s : State) : Bool :=
  (s.run == .ready) || (s.env.rb.isEmpty && atRbSample s.todo)

/-- Perform engine steps until the block settles, at most as many as the fuel says. -/
def drive : Nat → State → Answer
  | 0, s => .next s
  | n + 1, s =>
    if s.settled then .next s
    else
      match engineStep s with
      | .next t => drive n t
      | .fault r => .fault r
      | .refused r => .refused r

/-- How many engine steps settling may perform: what `slice` says; without it enough to settle from any state, since an
entry costs at most two steps, and so does a scripted R/B# sample. -/
def State.fuel (s : State) : Nat :=
  match s.slice with
  | none => 2 * (s.todo.length + s.env.rb.length) + 4
  | some n => n

/-- Let the engine run until it settles, or for `slice` steps. -/
def State.settle (s : State) : Answer := drive s.fuel s

/-- A running operation goes on: one engine step (an R/B# sample, if the block was waiting for one), then on until it
settles again. -/
def resume (s : State) : Answer :=
  match engineStep s with
  | .next t => t.settle
  | .fault r => .fault r
  | .refused r => .refused r

/-- The life of a request (R132): the operand checks in their order, a refusal with code 5 if one fails; else acceptance
and the steps of the operation, ended by `RES <- 0`. -/
def request (checks : List (Option OperandCheck)) (steps : List Micro) (s : State) : Answer :=
  match s.run with
  | .running => .refused .requestWhileRunning
  | .ready =>
    match firstFailure checks with
    | some _ => .next s.refuse
    | none => (s.accept (steps ++ [.done resOk])).settle

/-! ## Moves of the host -/

/-- `BLOCK_RESET` (R250, R251): every field takes the value of the table of R45. Kept: the timing parameters,
`MAX_BURST` and `IdleOrder` (configuration, R6), the clock, the host's TXBUF (R21), and the model's own record of the
past and of the inputs. No event. -/
def State.blockReset (s : State) : State :=
  { State.reset with
    opnd := { Request.zero with txbuf := s.opnd.txbuf }, timing := s.timing, maxBurst := s.maxBurst,
    idleOrder := s.idleOrder, clkLast := s.clkLast, trace := s.trace, env := s.env, host := s.host, slice := s.slice }

/-- The host writes the operand fields of a request (R24). -/
def State.present (r : Request) (s : State) : State := { s with opnd := r }

/-- The host puts a request, before its other moves, to a block that is READY. -/
def State.withRequest (r : Request) (s : State) : State :=
  { s with run := .ready, todo := [], host := .request r :: s.host }

end Sys2Proof.Machine
end

