-- ==== Sys2Proof/Machine/Sequences.lean ====
section
/-! DEFINITION. The expansions into steps (R27, R107): the primitives of file 40 and MEASURE_BUSY as lists of steps, and
the parts the operations of files 41 to 46 share. `call P(args)` of the pseudocode is the list of P in place (R11). -/

namespace Sys2Proof.Machine

/-! ## Primitives -/

/-- `DQ <- b` (R41): clear, then set. -/
def driveByte (b : Byte) : List Micro := [.dqClr (~~~b), .dqSet b]

/-- `DQ <- TXBUF[k]`, the byte read at these steps (R64). -/
def driveTx (k : Nat) : List Micro := [.txClr k, .txSet k]

/-- One WE# low pulse (R96). -/
def pulseWe : List Micro := [.w .we false, .w .we true]

/-- The steps of one write of IDLE (R120). -/
def IdleWrite.steps : IdleWrite → List Micro
  | .ce => [.w .ce true]
  | .we => [.w .we true]
  | .re => [.w .re true]
  | .cle => [.w .cle false]
  | .ale => [.w .ale false]
  | .dqDir => [.dirDQ .out]
  | .dq => driveByte 0x00
  | .strobeDir => [.dirStrobe .inp]

/-- IDLE (R120): its writes in the order of the switch `IdleOrder` (R6, D5). -/
def idleSteps (io : IdleOrder) : List Micro := io.flatMap IdleWrite.steps

/-- SEND_COMMAND (R121). -/
def commandSteps (io : IdleOrder) (b : Byte) : List Micro :=
  [.w .ce false, .w .cle true] ++ driveByte b ++ pulseWe ++ idleSteps io

/-- The loop of SEND_ADDRESSES from byte index `k` on (R122). -/
def addressCycles : Nat → List Byte → List Micro
  | _, [] => []
  | k, b :: bs => [.setIdx k] ++ driveByte b ++ pulseWe ++ addressCycles (k + 1) bs

/-- SEND_ADDRESSES (R122). -/
def addressSteps (io : IdleOrder) (bs : List Byte) : List Micro :=
  [.w .ce false, .w .ale true] ++ addressCycles 0 bs ++ idleSteps io

/-- A burst loop: its body for the byte indexes `k`, `k + 1`, ..., `n` of them. -/
def burst (body : Nat → List Micro) : Nat → Nat → List Micro
  | _, 0 => []
  | k, n + 1 => body k ++ burst body (k + 1) n

/-- One byte of an ASYNC data-in burst (R123). -/
def dataInAsync (k : Nat) : List Micro := [.setIdx k] ++ driveTx k ++ pulseWe

/-- One byte of a TOGGLE data-in burst (R124). -/
def dataInToggle (k : Nat) : List Micro := [.setIdx k] ++ driveTx k ++ [.wInv .dqs, .wInv .dqsc]

/-- SEND_DATA of `n` bytes of TXBUF in the current mode (R123, R124). -/
def dataInSteps (io : IdleOrder) (mode : Mode) (n : Nat) : List Micro :=
  [.w .ce false, .w .cle false, .w .ale false] ++
    (match mode with
      | .async => burst dataInAsync 0 n
      | .toggle => [.w .dqs false, .w .dqsc true, .dirStrobe .out] ++ burst dataInToggle 0 n) ++
    idleSteps io

/-- One byte of an ASYNC data-out burst (R126): one sample while RE# is low. -/
def dataOutAsync (k : Nat) : List Micro := [.setIdx k, .w .re false, .sampleDQ, .w .re true]

/-- One byte of a TOGGLE data-out burst (R127): even bytes after the falling, odd bytes after the rising edge. -/
def dataOutToggle (k : Nat) : List Micro := [.setIdx k, .w .re (decide (k % 2 = 1)), .sampleDQ]

/-- READ_DATA of `n` bytes in the current mode (R125, R126, R127). -/
def dataOutSteps (io : IdleOrder) (timing : Timing) (mode : Mode) (n : Nat) : List Micro :=
  [.dirDQ .inp, .pollRb .untilReady, .dly .tRR timing.tRR, .w .ce false] ++
    (match mode with
      | .async => burst dataOutAsync 0 n
      | .toggle => burst dataOutToggle 0 n) ++
    idleSteps io ++ [.dly .tRHW timing.tRHW]

/-- WAIT_READY without a timeout (R128). -/
def waitReadySteps : List Micro := [.pollRb .untilReady]

/-- WAIT_READY with a bound (R128): the clock read, then the loop. -/
def boundedWaitSteps (k : Poll) : List Micro := [.clkStart, .pollRb k]

/-- MEASURE_BUSY (R200), alone (`raisedWp` false) or as step 4 of a timed operation. -/
def measureBusySteps (ta tc : Word64) (raisedWp : Bool) : List Micro :=
  [.clkStart, .pollRb (.busyAssert (orDefault ta tAssertDefault) raisedWp), .busySeen, .clkBusyStart,
    .pollRb (.busyComplete (orDefault tc tCompleteDefault)), .clkBusyEnd]

/-! ## Parts the dispatcher and timed operations share -/

/-- `DLY(tX)` with the value configured at acceptance (R9, R74). -/
def delay (timing : Timing) (p : TimingParam) : List Micro := [.dly p (timing.get p)]

/-- `DLY(tWB)`, then `call WAIT_READY()` (R265). -/
def busyWaitSteps (timing : Timing) : List Micro := delay timing .tWB ++ waitReadySteps

/-- The sequence of CHANGE_READ_COLUMN (R162) with the given column bytes. -/
def changeColumnSteps (io : IdleOrder) (timing : Timing) (col : List Byte) : List Micro :=
  commandSteps io cmdChangeColumn ++ addressSteps io col ++ commandSteps io cmdChangeColumnConfirm ++ delay timing .tCCS

/-- `CRC(k)` and a one-byte read: one byte of a bytewise read (R154, R161). -/
def columnByteSteps (io : IdleOrder) (timing : Timing) (mode : Mode) (ccyc : BitVec 2) (k : Nat) : List Micro :=
  changeColumnSteps io timing (columnBytes ccyc k) ++ dataOutSteps io timing mode 1

/-- The command sequence of a page read up to its go byte (R160, R203). -/
def readGoSteps (io : IdleOrder) (pre00 : Bool) (addr : List Byte) : List Micro :=
  (if pre00 then commandSteps io cmdRead else []) ++ commandSteps io cmdRead ++ addressSteps io addr ++
    commandSteps io cmdReadConfirm

/-- The command sequence of a page program up to its go byte `k` (R170, R192, R194, R204). -/
def programGoSteps (io : IdleOrder) (timing : Timing) (mode : Mode) (addr : List Byte) (n : Nat) (k : Byte) :
    List Micro :=
  commandSteps io cmdProgram ++ addressSteps io addr ++ delay timing .tADL ++ dataInSteps io mode n ++ commandSteps io k

/-- The command sequence of an erase up to its go byte (R172, R190, R205). -/
def eraseGoSteps (io : IdleOrder) (addr : List Byte) : List Micro :=
  commandSteps io cmdErase ++ addressSteps io addr ++ commandSteps io cmdEraseConfirm

/-- The tail of a partial operation (R190, R194): the delay, the abort reset, the wait. -/
def abortSteps (io : IdleOrder) (timing : Timing) (l : Word32) : List Micro :=
  [.spin l] ++ commandSteps io cmdReset ++ busyWaitSteps timing

/-- The sequence of READ_STATUS (R184). -/
def statusSteps (io : IdleOrder) (timing : Timing) (mode : Mode) : List Micro :=
  commandSteps io cmdReadStatus ++ delay timing .tWHR ++ dataOutSteps io timing mode 1

/-- The prologue of a timed operation (R202): WP raised where required, then the guarded ready wait. -/
def prologueSteps (raiseWp : Bool) : List Micro :=
  (if raiseWp then [.w .wp true] else []) ++ boundedWaitSteps (.guardReady raiseWp)

/-- The epilogue of a timed operation (R207): the status read, its decoding, WP low again. -/
def epilogueSteps (io : IdleOrder) (timing : Timing) (mode : Mode) (raisedWp : Bool) : List Micro :=
  statusSteps io timing mode ++ [.decodeStatus] ++ lowerWp raisedWp

end Sys2Proof.Machine
end

