-- ==== Sys2Proof/Machine/BusEngine.lean ====
section
/-! DEFINITION. The meanings of the bus-engine primitives (file 40, and MEASURE_BUSY of file 46). -/

namespace Sys2Proof.Machine

/-- IDLE, R120. -/
def execIdle (s : State) : Answer := request [] (idleSteps s.idleOrder) s

/-- SEND_COMMAND, R121. -/
def execSendCommand (b : Byte) (s : State) : Answer := request [] (commandSteps s.idleOrder b) s

/-- SEND_ADDRESSES, R122. -/
def execSendAddresses (a : AddrArray) (n : BitVec 4) (s : State) : Answer :=
  request [checkAlen n] (addressSteps s.idleOrder (addrBytes a n)) s

/-- SEND_DATA, R123 (ASYNC) and R124 (TOGGLE). -/
def execSendData (c : Word32) (s : State) : Answer :=
  request [checkCount s c, checkParity s c] (dataInSteps s.idleOrder s.mode c.toNat) s

/-- READ_DATA, R125 with R126 (ASYNC) or R127 (TOGGLE). -/
def execReadData (c : Word32) (s : State) : Answer :=
  request [checkCount s c] (dataOutSteps s.idleOrder s.timing s.mode c.toNat) s

/-- WAIT_READY, R128. -/
def execWaitReady (limit : Option Word64) (s : State) : Answer :=
  request []
    (match limit with
      | none => waitReadySteps
      | some t => boundedWaitSteps (.waitBound t)) s

/-- ENABLE_ERASE, R130. -/
def execEnableErase (s : State) : Answer := request [] [.w .wp true] s

/-- DISABLE_ERASE, R131. -/
def execDisableErase (s : State) : Answer := request [] [.w .wp false] s

/-- MEASURE_BUSY, R200. -/
def execMeasureBusy (ta tc : Word64) (s : State) : Answer := request [] (measureBusySteps ta tc false) s

end Sys2Proof.Machine
end

