-- ==== Sys2Proof/Machine/Dispatcher.lean ====
section
/-! DEFINITION. The meanings of the dispatcher operations (files 41 to 45). -/

namespace Sys2Proof.Machine

/-! ## Reset and identification (file 41) -/

/-- RESET, R150: it resets the device, not the block. -/
def execReset (s : State) : Answer := request [] (commandSteps s.idleOrder cmdReset ++ busyWaitSteps s.timing) s

/-- READ_ID, R151. -/
def execReadId (b : Byte) (c : Word32) (s : State) : Answer :=
  request [checkCount s c]
    (commandSteps s.idleOrder cmdReadId ++ addressSteps s.idleOrder [b] ++ delay s.timing .tWHR ++
      dataOutSteps s.idleOrder s.timing s.mode c.toNat) s

/-- READ_UNIQUE_ID, R152. -/
def execReadUniqueId (s : State) : Answer :=
  request []
    (commandSteps s.idleOrder cmdReadUniqueId ++ addressSteps s.idleOrder [addrUniqueId] ++ busyWaitSteps s.timing ++
      dataOutSteps s.idleOrder s.timing s.mode uniqueIdBytes) s

/-- READ_PARAMETER_PAGE, R153 (bulk) and R154 (bytewise: byte 0 without a column change). -/
def execReadParameterPage (jedec : Bool) (bytewise : Option (BitVec 2)) (s : State) : Answer :=
  request [checkCcyc bytewise]
    (commandSteps s.idleOrder cmdReadParameterPage ++ addressSteps s.idleOrder [parameterPageAddr jedec] ++
      busyWaitSteps s.timing ++
      (match bytewise with
        | none => dataOutSteps s.idleOrder s.timing s.mode parameterPageBytes
        | some c =>
            dataOutSteps s.idleOrder s.timing s.mode 1 ++
              burst (columnByteSteps s.idleOrder s.timing s.mode c) 1 (parameterPageBytes - 1))) s

/-! ## Reads (file 42) -/

/-- PAGE_READ, R160 (bulk) and R161 (bytewise: a column change before every byte). -/
def execPageRead (a : AddrArray) (n : BitVec 4) (c : Word32) (pre00 : Bool) (bytewise : Option (BitVec 2))
    (s : State) : Answer :=
  request [checkAlen n, checkCount s c, checkCcyc bytewise]
    (readGoSteps s.idleOrder pre00 (addrBytes a n) ++ busyWaitSteps s.timing ++
      (match bytewise with
        | none => dataOutSteps s.idleOrder s.timing s.mode c.toNat
        | some cc => burst (columnByteSteps s.idleOrder s.timing s.mode cc) 0 c.toNat)) s

/-- CHANGE_READ_COLUMN, R162. -/
def execChangeReadColumn (a : AddrArray) (n : BitVec 4) (s : State) : Answer :=
  request [checkAlen n] (changeColumnSteps s.idleOrder s.timing (addrBytes a n)) s

/-! ## Program and erase (file 43) -/

/-- PAGE_PROGRAM, R170. -/
def execPageProgram (a : AddrArray) (n : BitVec 4) (c : Word32) (k : Byte) (s : State) : Answer :=
  request [checkAlen n, checkCount s c, checkParity s c]
    (programGoSteps s.idleOrder s.timing s.mode (addrBytes a n) c.toNat k ++ busyWaitSteps s.timing) s

/-- BLOCK_ERASE, R172. -/
def execBlockErase (a : AddrArray) (n : BitVec 4) (s : State) : Answer :=
  request [checkAlen n] (eraseGoSteps s.idleOrder (addrBytes a n) ++ busyWaitSteps s.timing) s

/-! ## Features and status (file 44) -/

/-- SET_FEATURES, R180. -/
def execSetFeatures (f : Byte) (s : State) : Answer :=
  request []
    (commandSteps s.idleOrder cmdSetFeatures ++ addressSteps s.idleOrder [f] ++ delay s.timing .tADL ++
      dataInSteps s.idleOrder s.mode featureBytes ++ busyWaitSteps s.timing) s

/-- GET_FEATURES, R182. -/
def execGetFeatures (f : Byte) (s : State) : Answer :=
  request []
    (commandSteps s.idleOrder cmdGetFeatures ++ addressSteps s.idleOrder [f] ++ busyWaitSteps s.timing ++
      dataOutSteps s.idleOrder s.timing s.mode featureBytes) s

/-- READ_STATUS, R184. -/
def execReadStatus (s : State) : Answer := request [] (statusSteps s.idleOrder s.timing s.mode) s

/-! ## Partial operations and TLC (file 45) -/

/-- PARTIAL_ERASE, R190. -/
def execPartialErase (a : AddrArray) (n : BitVec 4) (l : Word32) (s : State) : Answer :=
  request [checkAlen n] (eraseGoSteps s.idleOrder (addrBytes a n) ++ abortSteps s.idleOrder s.timing l) s

/-- TLC_SUBPAGE_PROGRAM, R192. -/
def execTlcSubpageProgram (x : Byte) (a : AddrArray) (n : BitVec 4) (c : Word32) (s : State) : Answer :=
  request [checkSubpage x, checkAlen n, checkCount s c, checkParity s c]
    (commandSteps s.idleOrder x ++ programGoSteps s.idleOrder s.timing s.mode (addrBytes a n) c.toNat (tlcConfirm x) ++
      busyWaitSteps s.timing) s

/-- PARTIAL_PROGRAM, R194. -/
def execPartialProgram (a : AddrArray) (n : BitVec 4) (c : Word32) (k : Byte) (l : Word32) (s : State) : Answer :=
  request [checkAlen n, checkCount s c, checkParity s c]
    (programGoSteps s.idleOrder s.timing s.mode (addrBytes a n) c.toNat k ++ abortSteps s.idleOrder s.timing l) s

end Sys2Proof.Machine
end

