-- ==== Sys2Proof/Machine/Timed.lean ====
section
/-! DEFINITION. The meanings of the timed operations (file 46): prologue, command sequence up to the go byte,
MEASURE_BUSY, epilogue. The two early paths (R206) are in the polling loops' expiry. -/

namespace Sys2Proof.Machine

/-- T_READ, R203. -/
def execTRead (a : AddrArray) (n : BitVec 4) (c : Word32) (pre00 fetch : Bool) (ta tc : Word64) (s : State) :
    Answer :=
  request [checkAlen n, checkCount s c]
    (prologueSteps false ++ readGoSteps s.idleOrder pre00 (addrBytes a n) ++ measureBusySteps ta tc false ++
      (if fetch then dataOutSteps s.idleOrder s.timing s.mode c.toNat ++ [.setFetched] else []) ++
      epilogueSteps s.idleOrder s.timing s.mode false) s

/-- T_PROGRAM, R204. -/
def execTProgram (a : AddrArray) (n : BitVec 4) (c : Word32) (k : Byte) (ta tc : Word64) (s : State) : Answer :=
  request [checkAlen n, checkCount s c, checkParity s c]
    (prologueSteps true ++ programGoSteps s.idleOrder s.timing s.mode (addrBytes a n) c.toNat k ++
      measureBusySteps ta tc true ++ epilogueSteps s.idleOrder s.timing s.mode true) s

/-- T_ERASE, R205. -/
def execTErase (a : AddrArray) (n : BitVec 4) (ta tc : Word64) (s : State) : Answer :=
  request [checkAlen n]
    (prologueSteps true ++ eraseGoSteps s.idleOrder (addrBytes a n) ++ measureBusySteps ta tc true ++
      epilogueSteps s.idleOrder s.timing s.mode true) s

end Sys2Proof.Machine
end

