-- ==== Sys2Proof/Machine/Dispatch.lean ====
section
/-! DEFINITION. One arm per operation of R92. -/

namespace Sys2Proof.Machine

def exec (i : Instr) (s : State) : Host.Outcome State Fault Refusal :=
  match i with
  | .idle => Sys2Proof.Machine.execIdle s
  | .sendCommand b => Sys2Proof.Machine.execSendCommand b s
  | .sendAddresses a n => Sys2Proof.Machine.execSendAddresses a n s
  | .sendData c => Sys2Proof.Machine.execSendData c s
  | .readData c => Sys2Proof.Machine.execReadData c s
  | .waitReady limit => Sys2Proof.Machine.execWaitReady limit s
  | .enableErase => Sys2Proof.Machine.execEnableErase s
  | .disableErase => Sys2Proof.Machine.execDisableErase s
  | .measureBusy ta tc => Sys2Proof.Machine.execMeasureBusy ta tc s
  | .reset => Sys2Proof.Machine.execReset s
  | .readId b c => Sys2Proof.Machine.execReadId b c s
  | .readUniqueId => Sys2Proof.Machine.execReadUniqueId s
  | .readParameterPage jedec bytewise => Sys2Proof.Machine.execReadParameterPage jedec bytewise s
  | .pageRead a n c pre00 bytewise => Sys2Proof.Machine.execPageRead a n c pre00 bytewise s
  | .changeReadColumn a n => Sys2Proof.Machine.execChangeReadColumn a n s
  | .pageProgram a n c k => Sys2Proof.Machine.execPageProgram a n c k s
  | .blockErase a n => Sys2Proof.Machine.execBlockErase a n s
  | .setFeatures f => Sys2Proof.Machine.execSetFeatures f s
  | .getFeatures f => Sys2Proof.Machine.execGetFeatures f s
  | .readStatus => Sys2Proof.Machine.execReadStatus s
  | .partialErase a n l => Sys2Proof.Machine.execPartialErase a n l s
  | .tlcSubpageProgram x a n c => Sys2Proof.Machine.execTlcSubpageProgram x a n c s
  | .partialProgram a n c k l => Sys2Proof.Machine.execPartialProgram a n c k l s
  | .tRead a n c pre00 fetch ta tc => Sys2Proof.Machine.execTRead a n c pre00 fetch ta tc s
  | .tProgram a n c k ta tc => Sys2Proof.Machine.execTProgram a n c k ta tc s
  | .tErase a n ta tc => Sys2Proof.Machine.execTErase a n ta tc s

end Sys2Proof.Machine
end

