-- ==== Sys2Proof/Machine/Step.lean ====
section
/-! DEFINITION. One step of the machine: a move of the host when the block is READY (or `BLOCK_RESET` at any time), else
the running operation goes on (R20, R250). -/

namespace Sys2Proof.Machine

/-- One step. `BLOCK_RESET` is taken in any state (R250). While RUNNING the host has no other move and the engine goes on
(R262, D20). While READY the host's next move is taken: a request is decoded and executed, a request the decoder rejects
is refused with code 5 (R93, R132), a configuration field is written (R28); with no move the block waits (R252). -/
def step (s : State) : Host.Outcome State Fault Refusal :=
  match s.host with
  | .blockReset :: rest => .next ({ s with host := rest }.blockReset)
  | moves =>
    match s.run with
    | .running => resume s
    | .ready =>
      match moves with
      | .request r :: rest =>
        match decode r with
        | .ok i => exec i ({ s with host := rest }.present r)
        | .error _ => .next ({ s with host := rest }.present r).refuse
      | .setMode m :: rest => .next { s with host := rest, mode := m }
      | .setTiming t :: rest => .next { s with host := rest, timing := t }
      | .setSlice n :: rest => .next { s with host := rest, slice := n }
      | .blockReset :: rest => .next ({ s with host := rest }.blockReset)
      | [] => .next s

/-- `s` with the request of an opcode-table word (`OP` and zero operands) as the host's next move to a READY block, so
that the next step decodes and runs it. -/
def State.withFetchWord (s : State) (nbits w : Nat) : State :=
  match requestOfWord nbits w with
  | some r => s.withRequest r
  | none => s

end Sys2Proof.Machine
end

