-- ==== Sys2Proof/Machine/Gpio.lean ====
section
/-! DEFINITION. The pin access layer (R70) and the DQ look-up table (R40 to R42), as functions of `PinMap`. -/

namespace Sys2Proof.Machine

/-! ## The look-up table (R40) and the gathering of a sample (R42) -/

/-- The 32-bit word with the bit of line `k` set, if `b[k]` is. -/
def lineBit (pm : PinMap) (b : Byte) (k : Fin 8) : Word32 :=
  if b.getLsbD k then (1 : Word32) <<< pm.dq[k] else 0

/-- `set_mask(b)` (R40): the OR over the lines with `b[i] = 1` of `1 << PinMap(DQi)`. -/
def setMask (pm : PinMap) (b : Byte) : Word32 :=
  (List.finRange 8).foldl (fun w k => w ||| lineBit pm b k) 0

/-- `clear_mask(b)` (R40): the same over the lines with `b[i] = 0`. -/
def clearMask (pm : PinMap) (b : Byte) : Word32 := setMask pm (~~~b)

/-- The aggregate DQ-pin mask. -/
def dqPinMask (pm : PinMap) : Word32 := setMask pm 0xFF

/-- `DQ?` from one 32-bit sample (R42): bit i of the byte is bit `PinMap(DQi)` of the sample. -/
def gather (pm : PinMap) (w : Word32) : Byte :=
  (List.finRange 8).foldl (fun b k => b ||| (if w.getLsbD pm.dq[k] then (1 : Byte) <<< k.val else 0)) 0

/-! ## The accesses (R70) -/

/-- The operations of the GPIO controller the block uses. -/
inductive GpioAccess where
  /-- `set_direction(pin, output)` -/
  | setDirection (pin : Nat) (output : Bool)
  /-- `write(pin, level)` -/
  | write (pin : Nat) (level : Level)
  /-- `read(pin)` -/
  | read (pin : Nat)
  /-- `set_multi(mask)` -/
  | setMulti (mask : Word32)
  /-- `clear_multi(mask)` -/
  | clearMulti (mask : Word32)
  /-- `read_levels_low()` -/
  | readLevelsLow
  deriving DecidableEq, Repr

/-- The signal of an output pin. -/
def Pin.signal : Pin → Signal
  | .ce => .ce
  | .we => .we
  | .re => .re
  | .cle => .cle
  | .ale => .ale
  | .wp => .wp
  | .dqs => .dqs
  | .dqsc => .dqsc

/-- The output argument of `set_direction`. -/
def Dir.isOutput : Dir → Bool
  | .inp => false
  | .out => true

/-- The accesses an event is made of (R70): a direction change is eight calls for DQ and two for the strobes. Waits and
clock reads touch no pin. -/
def Event.accesses (pm : PinMap) : Event → List GpioAccess
  | .w q v => [.write (pm.index q.signal) v]
  | .dqClr m => [.clearMulti (setMask pm m)]
  | .dqSet m => [.setMulti (setMask pm m)]
  | .dirDQ d => (List.finRange 8).map (fun k => .setDirection (pm.index (.dq k)) (Dir.isOutput d))
  | .dirStrobe d => [.setDirection pm.dqs (Dir.isOutput d), .setDirection pm.dqsc (Dir.isOutput d)]
  | .rb _ => [.read pm.rb]
  | .dq _ => [.readLevelsLow]
  | .clk _ => []
  | .dly _ _ => []
  | .spin _ => []

/-- What an access does to the output latch of the first 32 pins (R73): a multi-bit access changes the pins of its mask
and no other, a single write one pin. -/
def GpioAccess.onLatch (w : Word32) : GpioAccess → Word32
  | .setDirection _ _ => w
  | .write pin level =>
      if pin < 32 then (if level then w ||| ((1 : Word32) <<< pin) else w &&& ~~~((1 : Word32) <<< pin)) else w
  | .read _ => w
  | .setMulti mask => w ||| mask
  | .clearMulti mask => w &&& ~~~mask
  | .readLevelsLow => w

end Sys2Proof.Machine
end

