-- ==== Sys2Proof/Machine/Wire.lean ====
section
/-! DEFINITION. What the outside sees of a bus trace (R10): the pins after it, the bus cycles the device receives (R77,
R96) among the samples and waits, and the trace up to stuttering (R10, D33). Written from the spec's description of the
wires, not from the engine's lists of steps. -/

namespace Sys2Proof.Machine

/-! ## Replaying a trace -/

/-- The pins after a run of events. -/
def pinsAfter : Pins → List Event → Pins
  | p, [] => p
  | p, e :: es => pinsAfter (e.onPins p) es

/-- A property of the pins and the event at every event of a run. -/
def alongTrace (ok : Pins → Event → Bool) : Pins → List Event → Bool
  | _, [] => true
  | p, e :: es => ok p e && alongTrace ok (e.onPins p) es

/-! ## Bus cycles (R96) -/

/-- A cycle as the device receives it, with its byte. -/
inductive BusCycle where
  | command (b : Byte)
  | address (b : Byte)
  | dataIn (b : Byte)
  | dataOut (b : Byte)
  deriving DecidableEq, Repr

/-- What a latch edge carries, by CLE and ALE (R77); both high is no cycle kind (R97). -/
def latchedCycle (p : Pins) : Option BusCycle :=
  match p.cle, p.ale with
  | true, false => some (.command p.dqOut)
  | false, true => some (.address p.dqOut)
  | false, false => some (.dataIn p.dqOut)
  | true, true => none

/-- The cycle an event completes, seen by the device (R77, R96): a WE# rising edge, or a DQS transition driven by the
engine, with CE# low; a data-out byte where the engine samples it. PRESUMED: the rising edge is the latch edge (G2, log
11). -/
def cycleOf (p : Pins) : Event → Option BusCycle
  | .w .we true => if !p.ce && !p.we then latchedCycle p else none
  | .w .dqs v => if !p.ce && (v != p.dqs) && (p.strobeDir == .out) then latchedCycle p else none
  | .dq b => if !p.ce && !p.cle && !p.ale then some (.dataOut b) else none
  | _ => none

/-- How often a pin goes to a level in a run of events (R133): writes of the level held do not count. -/
def edges (q : Pin) (v : Level) : Pins → List Event → Nat
  | _, [] => 0
  | p, e :: es => (if e == .w q v && p.level q != v then 1 else 0) + edges q v (e.onPins p) es

/-! ## What an observer of the pins, the samples and the waits sees -/

/-- One thing an observer of a run sees. It leaves out the order of the writes inside IDLE, which nothing may depend on
(D5), and keeps the order of everything else. -/
inductive Seen where
  /-- a bus cycle (R96) -/
  | cycle (c : BusCycle)
  /-- a sample of R/B# -/
  | rb (v : Level)
  /-- a clock read -/
  | clk (t : Word64)
  /-- a write of the WP pin -/
  | wp (v : Level)
  /-- one of the six waits -/
  | dly (p : TimingParam) (t : Word32)
  /-- the no-op loop of a partial operation -/
  | spin (n : Word32)
  deriving DecidableEq, Repr

/-- What is seen of one event, the pins before it given. -/
def Event.seen (p : Pins) (e : Event) : List Seen :=
  match e with
  | .w .wp v => [.wp v]
  | .rb v => [.rb v]
  | .clk t => [.clk t]
  | .dly q t => [.dly q t]
  | .spin n => [.spin n]
  | e => (cycleOf p e).toList.map .cycle

/-- What is seen of a run of events that starts at the given pins. -/
def observe : Pins → List Event → List Seen
  | _, [] => []
  | p, e :: es => e.seen p ++ observe (e.onPins p) es

/-! ### The runs the spec's sequences name (R12, 95_test_vectors.md) -/

/-- `CMD b`: one command cycle. -/
def seenCmd (b : Byte) : List Seen := [.cycle (.command b)]

/-- `ADDR`: one address cycle per byte. -/
def seenAddr (bs : List Byte) : List Seen := bs.map (fun b => .cycle (.address b))

/-- `DATA`: one data-in cycle per byte. -/
def seenData (bs : List Byte) : List Seen := bs.map (fun b => .cycle (.dataIn b))

/-- `wait-ready`: `k` samples of 0, then one of 1. -/
def seenReady (k : Nat) : List Seen := List.replicate k (.rb false) ++ [.rb true]

/-- `DLY(tX)` with the configured value. -/
def seenDly (timing : Timing) (p : TimingParam) : List Seen := [.dly p (timing.get p)]

/-- `read N bytes`: the ready wait, tRR, one data-out cycle per byte, tRHW (R125). -/
def seenRead (timing : Timing) (k : Nat) (bs : List Byte) : List Seen :=
  seenReady k ++ seenDly timing .tRR ++ bs.map (fun b => .cycle (.dataOut b)) ++ seenDly timing .tRHW

/-! ## Up to stuttering (R10, D33) -/

/-- A write that changes nothing on the wires: `W` of the level held, `DQCLR` or `DQSET` that changes no bit (R10), a
direction already set (V-IDLE-1). -/
def stutters (p : Pins) : Event → Bool
  | .w q v => p.level q == v
  | .dqClr m => p.dqOut &&& ~~~m == p.dqOut
  | .dqSet m => p.dqOut ||| m == p.dqOut
  | .dirDQ d => p.dqDir == d
  | .dirStrobe d => p.strobeDir == d
  | _ => false

/-- The run without its stuttering writes. -/
def levelChanges : Pins → List Event → List Event
  | _, [] => []
  | p, e :: es => (if stutters p e then [] else [e]) ++ levelChanges (e.onPins p) es

end Sys2Proof.Machine
end

