-- ==== Sys2Proof/WellFormed.lean ====
section
/-! DEFINITION. Which operands a request may carry (R93, R224): the range checks, stated on the instruction as syntax.
`MODE` and `MAX_BURST` are arguments, since the parity and the bound of a burst depend on them. -/

namespace Sys2Proof

/-- `ALEN` in 0..8 (R93, `MAX_ADDR` = 8). -/
def WellFormed.alen (n : BitVec 4) : Bool := decide (n.toNat ≤ 8)

/-- `COUNT` in 0..MAX_BURST (R93). -/
def WellFormed.count (maxBurst : Nat) (c : Word32) : Bool := decide (c.toNat ≤ maxBurst)

/-- The one alignment rule (R67): a TOGGLE-mode data burst has an even `COUNT`. -/
def WellFormed.parity (mode : Mode) (c : Word32) : Bool :=
  match mode with
  | .async => true
  | .toggle => decide (c.toNat % 2 = 0)

/-- `CCYC` is 1 or 2 where it is read (R93). -/
def WellFormed.ccyc : Option (BitVec 2) → Bool
  | none => true
  | some c => c == 1 || c == 2

/-- The subpage index of TLC_SUBPAGE_PROGRAM is 1, 2 or 3 (R93, D25). -/
def WellFormed.subpage (x : Byte) : Bool := x == 1 || x == 2 || x == 3

/-- Every operand of the instruction is inside the range its rule states (R93, R224). -/
def Instr.wellFormed (mode : Mode) (maxBurst : Nat) : Instr → Bool
  | .idle => true
  | .sendCommand _ => true
  | .sendAddresses _ n => WellFormed.alen n
  | .sendData c => WellFormed.count maxBurst c && WellFormed.parity mode c
  | .readData c => WellFormed.count maxBurst c
  | .waitReady _ => true
  | .enableErase => true
  | .disableErase => true
  | .measureBusy _ _ => true
  | .reset => true
  | .readId _ c => WellFormed.count maxBurst c
  | .readUniqueId => true
  | .readParameterPage _ bytewise => WellFormed.ccyc bytewise
  | .pageRead _ n c _ bytewise => WellFormed.alen n && WellFormed.count maxBurst c && WellFormed.ccyc bytewise
  | .changeReadColumn _ n => WellFormed.alen n
  | .pageProgram _ n c _ => WellFormed.alen n && WellFormed.count maxBurst c && WellFormed.parity mode c
  | .blockErase _ n => WellFormed.alen n
  | .setFeatures _ => true
  | .getFeatures _ => true
  | .readStatus => true
  | .partialErase _ n _ => WellFormed.alen n
  | .tlcSubpageProgram x _ n c =>
      WellFormed.subpage x && WellFormed.alen n && WellFormed.count maxBurst c && WellFormed.parity mode c
  | .partialProgram _ n c _ _ => WellFormed.alen n && WellFormed.count maxBurst c && WellFormed.parity mode c
  | .tRead _ n c _ _ _ _ => WellFormed.alen n && WellFormed.count maxBurst c
  | .tProgram _ n c _ _ _ => WellFormed.alen n && WellFormed.count maxBurst c && WellFormed.parity mode c
  | .tErase _ n _ _ => WellFormed.alen n

end Sys2Proof
end

