-- ==== Sys2Proof/Safety.lean ====
section
/-! DEFINITION. What counts as a safe run, in the terms the statements use: legal pins (R33, R79, R97), a sound state
(the invariant), what no operation changes, and what a completed operation has received. -/

namespace Sys2Proof.Machine

/-! ## Legal pins and events -/

/-- CLE and ALE are never high together (R77, R97), WE# and RE# never low together (R97), RE# is low only while DQ are
inputs (R79), DQ are inputs only with CLE, ALE and WE# idle (R33), and the strobes are driven only while DQ are (R33). -/
def Pins.legal (p : Pins) : Bool :=
  !(p.cle && p.ale) && (p.we || p.re) && (p.re || p.dqDir == .inp) &&
    (p.dqDir == .out || (!p.cle && !p.ale && p.we && p.strobeDir == .inp))

/-- The pins before an event are legal, DQ are sampled only while inputs (R9), and a byte is driven on DQ only while
they are outputs (R41). -/
def legalEvent (p : Pins) (e : Event) : Bool :=
  p.legal &&
    match e with
    | .dq _ => p.dqDir == .inp
    | .dqClr _ => p.dqDir == .out
    | .dqSet _ => p.dqDir == .out
    | _ => true

/-- A write to the WP pin (R32). -/
def writesWp : Event → Bool
  | .w .wp _ => true
  | _ => false

/-! ## The switch IdleOrder (R6, D5) -/

/-- An order of the eight writes of IDLE: each of them once (R120). -/
def IdleOrder.complete (io : IdleOrder) : Bool := io.isPerm IdleOrder.listing

/-- One write of IDLE stands before another. -/
def IdleOrder.precedes (io : IdleOrder) (a b : IdleWrite) : Bool := decide (io.idxOf a < io.idxOf b)

/-- An order that keeps two rules the spec states of every step: READ_DATA turns DQ back to outputs in the closing IDLE
only "after CE# and RE# are high" (R79), and a byte is driven on DQ only while they are outputs (R41). The listing order
is one. DEDUCED (log 17): that these two rules limit the switch. -/
def IdleOrder.lawful (io : IdleOrder) : Bool :=
  io.complete && io.precedes .ce .dqDir && io.precedes .re .dqDir && io.precedes .dqDir .dq

/-! ## The invariant -/

/-- The pins after an entry of the flat list: those of its event, if it has one. -/
def Micro.onPins (tx : Memory) (p : Pins) (m : Micro) : Pins :=
  match m.event tx p with
  | some e => e.onPins p
  | none => p

/-- A loop that can end the operation early (R206, R128) runs only with the pins idle. -/
def Poll.needsIdle : Poll → Bool
  | .untilReady => false
  | .waitBound _ => true
  | .guardReady _ => true
  | .busyAssert _ _ => true
  | .busyComplete _ => false

/-- The values `RES` can take in this block (R220): codes 1, 3, 4 and 6 are never produced. -/
def knownCode (code : Byte) : Bool :=
  code == resOk || code == resDeviceNotResponding || code == resOutOfRange || code == resTimeout

/-- From these pins the steps left keep the pins legal and end, on every path, with the pins idle and a known code. -/
def tailSound (tx : Memory) : Pins → List Micro → Bool
  | p, [] => p.isIdle
  | p, m :: rest =>
    p.legal &&
      match m with
      | .done code => p.isIdle && knownCode code
      | .sampleDQ => (p.dqDir == .inp) && tailSound tx p rest
      | .pollRb k => (!k.needsIdle || p.isIdle) && tailSound tx p rest
      | .pollClk k => (!k.needsIdle || p.isIdle) && tailSound tx p rest
      | .dqClr _ => (p.dqDir == .out) && tailSound tx (m.onPins tx p) rest
      | .dqSet _ => (p.dqDir == .out) && tailSound tx (m.onPins tx p) rest
      | .txClr _ => (p.dqDir == .out) && tailSound tx (m.onPins tx p) rest
      | .txSet _ => (p.dqDir == .out) && tailSound tx (m.onPins tx p) rest
      | m => tailSound tx (m.onPins tx p) rest

/-- The TXBUF a host's request brings is in canonical form. -/
def HostMove.wf : HostMove → Bool
  | .request r => Memory.wf r.txbuf
  | .setMode _ => true
  | .setTiming _ => true
  | .blockReset => true
  | .setSlice _ => true

/-- The invariant: READY means idle pins (R31), RUNNING means that the steps left are sound, `RES` is a code the block
can produce (R220), every buffer is in canonical form, and the switch `IdleOrder` has an order that keeps R41 and R79. -/
structure State.Sound (s : State) : Prop where
  orderLawful : s.idleOrder.lawful = true
  idleWhenReady : s.run = .ready → s.pins.isIdle = true
  tailWhenRunning : s.run = .running → tailSound s.opnd.txbuf s.pins s.todo = true
  resKnown : knownCode s.res = true
  txCanonical : Memory.wf s.opnd.txbuf = true
  rxCanonical : Memory.wf s.rxbuf = true
  hostCanonical : s.host.all HostMove.wf = true

/-! ## The receive buffer has room (R43, R109 (d)) -/

/-- How many DQ samples the steps left take. -/
def samplesLeft : List Micro → Nat
  | [] => 0
  | .sampleDQ :: rest => samplesLeft rest + 1
  | _ :: rest => samplesLeft rest

/-- `MAX_BURST` leaves room for a parameter page and for 32 bits of `RXLEN` (R6, R109 (d)), and what has been received
and is still to be sampled fits the capacity `MAX_BURST` + 1 (R43). -/
structure State.RxFits (s : State) : Prop where
  pageFits : parameterPageBytes ≤ s.maxBurst
  lengthFits : s.maxBurst + 1 < 2 ^ 32
  roomWhenReady : s.run = .ready → s.rxlen.toNat ≤ s.maxBurst + 1
  roomWhenRunning : s.run = .running → s.rxlen.toNat + samplesLeft s.todo ≤ s.maxBurst + 1

/-! ## The ends of operations and their frames -/

/-- The block is READY with idle pins (R30, R31), RXBUF is in canonical form, the writes of IDLE have some order (D5:
any) and nothing cuts a run short (log 1): where every request of a run starts. -/
def State.Fresh (s : State) : Prop :=
  s.run = .ready ∧ s.pins.isIdle = true ∧ Memory.wf s.rxbuf = true ∧ s.idleOrder.complete = true ∧ s.slice = none

/-- What no operation changes: the operand fields with TXBUF (R74, R64), the configuration (R28) and the host's queue. -/
def HostSideKept (s t : State) : Prop :=
  t.opnd = s.opnd ∧ t.mode = s.mode ∧ t.timing = s.timing ∧ t.maxBurst = s.maxBurst ∧ t.host = s.host ∧
    t.slice = s.slice ∧ t.idleOrder = s.idleOrder

/-- The operation is over, with this result code, and has left the host's side alone. -/
def Ended (s t : State) (code : Byte) : Prop := t.run = .ready ∧ t.res = code ∧ HostSideKept s t

/-- The trace has grown by a run of events of which this is seen. -/
def Shown (s t : State) (seen : List Seen) : Prop :=
  ∃ es, t.trace = s.trace ++ es ∧ observe s.pins es = seen

/-- The operation has put exactly these bytes at the start of RXBUF, `RXLEN` counts them, and every other byte of RXBUF
reads as before (R43, R65). -/
def Received (s t : State) (bytes : List Byte) : Prop :=
  t.rxlen.toNat = bytes.length ∧ ∀ k, Memory.read t.rxbuf k = (bytes[k]?).getD (Memory.read s.rxbuf k)

/-- Nothing was received: `RXLEN` is 0 and RXBUF is untouched. -/
def NothingReceived (s t : State) : Prop := t.rxlen = 0 ∧ t.rxbuf = s.rxbuf

/-- The record and `FETCHED` are zero (R26, R29). -/
def NoRecord (t : State) : Prop := t.record = .zero ∧ t.fetched = false

/-- Exactly so many samples of R/B# and DQ were taken, and the clock was not read. -/
def Sampled (s t : State) (rbs dqs : Nat) : Prop :=
  t.clkLast = s.clkLast ∧
    t.env = { s.env with rb := s.env.rb.drop rbs, rbN := s.env.rbN + rbs, dq := s.env.dq.drop dqs,
                         dqN := s.env.dqN + dqs }

/-- Exactly so many samples of R/B# and DQ were taken and so many clock reads made, the last of which gave `last`. -/
def Clocked (s t : State) (rbs dqs clks : Nat) (last : Word64) : Prop :=
  t.clkLast = last ∧
    t.env = { rb := s.env.rb.drop rbs, rbN := s.env.rbN + rbs, dq := s.env.dq.drop dqs, dqN := s.env.dqN + dqs,
              clk := s.env.clk.drop clks, clkN := s.env.clkN + clks }

/-- The next `n` answers to DQ samples (R76). -/
def dqAnswers (s : State) (n : Nat) : List Byte :=
  (List.range n).map (fun k => (s.env.dq[k]?).getD (Config.dqDraw (s.env.dqN + k)))

/-- `k` R/B# samples of 0, then one of 1. -/
def readyAfter (k : Nat) : List Level := List.replicate k false ++ [true]

/-- The idle state reached from these pins: IDLE writes neither WP nor the strobe latches (R120). -/
def Pins.toIdle (p : Pins) : Pins :=
  { p with ce := true, we := true, re := true, cle := false, ale := false, dqDir := .out, dqOut := 0x00,
           strobeDir := .inp }

/-- The pins after a data-in burst of a mode: a TOGGLE burst leaves the strobe latches at 0 and 1 (R124). -/
def Pins.afterDataIn (mode : Mode) (p : Pins) : Pins :=
  match mode with
  | .async => p
  | .toggle => { p with dqs := false, dqsc := true }

/-! ## Bytewise reads -/

/-- The R/B# answers of a run of one-byte reads: `ks` says after how many samples of 0 each finds the device ready. -/
def readyRuns (ks : List Nat) : List Level := ks.flatMap readyAfter

/-- How many R/B# samples that run takes. -/
def samplesOf (ks : List Nat) : Nat := (readyRuns ks).length

/-- What is seen of a run of one-byte reads from column `col` on, each after its change of column (R154, R161). -/
def seenColumnReads (timing : Timing) (ccyc : BitVec 2) : Nat → List (Nat × Byte) → List Seen
  | _, [] => []
  | col, (k, b) :: rest =>
      seenCmd 0x05 ++ seenAddr (columnBytes ccyc col) ++ seenCmd 0xE0 ++ seenDly timing .tCCS ++ seenRead timing k [b] ++
        seenColumnReads timing ccyc (col + 1) rest

/-! ## Bounded waits and the busy window -/

/-- The clock reads do not go back (R38), from the last value on. -/
def risingFrom : Word64 → List Word64 → Bool
  | _, [] => true
  | last, t :: ts => decide (last.toNat ≤ t.toNat) && risingFrom t ts

/-- Every one of these clock reads lies less than `bound` after `origin`. -/
def allWithin (origin bound : Word64) (ts : List Word64) : Bool :=
  ts.all (fun t => decide (t.toNat - origin.toNat < bound.toNat))

/-- What is seen of a bounded loop going round: a sample of the unwanted level, then the clock read at its bound. -/
def seenRounds (v : Level) (ts : List Word64) : List Seen := ts.flatMap (fun t => [.rb v, .clk t])

/-- A busy window as MEASURE_BUSY meets it (R200): the clock reads `t0`, those of phase A, `busy_start`, those of phase
B, the one at which phase B hit its bound (if it did), and `t_end`. -/
structure BusyWindow where
  origin : Word64
  before : List Word64
  start : Word64
  during : List Word64
  late : Option Word64
  stop : Word64
  deriving DecidableEq, Repr

/-- The R/B# answers of the window: ready in phase A until the fall, busy in phase B until the rise or the bound. -/
def BusyWindow.rb (w : BusyWindow) : List Level :=
  List.replicate w.before.length true ++ [false] ++ List.replicate w.during.length false ++ [w.late.isNone]

/-- The clock reads of the window. -/
def BusyWindow.clk (w : BusyWindow) : List Word64 :=
  [w.origin] ++ w.before ++ [w.start] ++ w.during ++ w.late.toList ++ [w.stop]

/-- The window lies inside the two bounds where R200 goes on, and reaches the second where R200 says `timed_out`. -/
def BusyWindow.within (w : BusyWindow) (assertBound completeBound : Word64) : Bool :=
  allWithin w.origin assertBound w.before && allWithin w.start completeBound w.during &&
    (match w.late with
      | none => true
      | some t => decide (completeBound.toNat ≤ t.toNat - w.start.toNat))

/-- What is seen of the window. -/
def BusyWindow.seen (w : BusyWindow) : List Seen :=
  [.clk w.origin] ++ seenRounds true w.before ++ [.rb false, .clk w.start] ++ seenRounds false w.during ++
    [.rb w.late.isNone] ++ w.late.toList.map .clk ++ [.clk w.stop]

/-- The record the window leaves (R200). -/
def BusyWindow.record (w : BusyWindow) : TimingRecord :=
  { TimingRecord.zero with
    durationNs := w.stop - w.start, busyDetected := true, timedOut := w.late.isSome }

/-- The operation ran to its end: READY with `RES` = 0, these pins, this seen of it, no record, so many samples. -/
def Completed (s t : State) (pins : Pins) (seen : List Seen) (rbs dqs : Nat) : Prop :=
  Ended s t resOk ∧ t.pins = pins ∧ Shown s t seen ∧ NoRecord t ∧ Sampled s t rbs dqs

/-! ## Along a burst (R121, R125, D6, D12) -/

/-- DQ stay outputs, and the byte on them does not change while WE# is low (D6). -/
def byteHeld (p : Pins) (e : Event) : Bool :=
  (p.dqDir == .out) && (p.we || ((e.onPins p).dqOut == p.dqOut))

/-- DQ are sampled only while RE# is low (R126, D12). -/
def sampledWhileReLow (p : Pins) : Event → Bool
  | .dq _ => !p.re
  | _ => true

/-- The RE# edges and the DQ samples of a run, in order; writes of the level RE# holds do not count (R10). -/
def readActivity (p : Pins) (es : List Event) : List Event :=
  (levelChanges p es).filter fun e =>
    match e with
    | .w .re _ => true
    | .dq _ => true
    | _ => false

/-- The RE# edges and samples of an ASYNC read (R126): for each byte RE# low, the sample, RE# high. -/
def asyncReadActivity (bs : List Byte) : List Event := bs.flatMap fun b => [.w .re false, .dq b, .w .re true]

/-- The RE# edges and samples of a TOGGLE read (R127): byte `k` follows the edge to 0 (even `k`) or to 1 (odd `k`), and
after an odd number of bytes IDLE raises RE# without a sample (D11). -/
def toggleReadActivity (bs : List Byte) : List Event :=
  bs.zipIdx.flatMap (fun (b, k) => [.w .re (decide (k % 2 = 1)), .dq b]) ++
    (if bs.length % 2 = 1 then [.w .re true] else [])

/-- A strobe edge happens only while CE# is low (R133): a change of WE#, a fall of RE#, or a change of DQS while the
strobes are driven. -/
def strobeSelected (p : Pins) : Event → Bool
  | .w .we v => (v == p.we) || !p.ce
  | .w .re v => v || !p.ce
  | .w .dqs v => (v == p.dqs) || (p.strobeDir == .inp) || !p.ce
  | _ => true

/-! ## What the request encoding reads (R92) -/

/-- The 26 operation codes (R92). -/
def operationCodes : List Nat :=
  [0x00, 0x01, 0x02, 0x03, 0x04, 0x05, 0x06, 0x07, 0x08, 0x10, 0x11, 0x12, 0x13, 0x14, 0x15, 0x16, 0x17, 0x18, 0x19,
    0x1A, 0x1B, 0x1C, 0x1D, 0x20, 0x21, 0x22]

/-- The flag bits the row of an operation code reads (R92): TIMEOUT_EN, JEDEC and BYTEWISE, PREFIX00 and BYTEWISE,
PREFIX00 and FETCH. -/
def flagsRead (op : Nat) : Byte :=
  if op = 0x05 then 0x10
  else if op = 0x13 then 0x03
  else if op = 0x14 then 0x06
  else if op = 0x20 then 0x0C
  else 0x00

/-- What is seen of a guarded or bounded wait that ends ready (R128): the clock read, the rounds, the sample of 1. -/
def seenBoundedWait (t0 : Word64) (ts : List Word64) : List Seen := [.clk t0] ++ seenRounds false ts ++ [.rb true]

/-! ## Who writes WP, and where it ends (R32, R211) -/

/-- The operations that write WP (R32). -/
def mayWriteWp : Instr → Bool
  | .enableErase => true
  | .disableErase => true
  | .tProgram _ _ _ _ _ _ => true
  | .tErase _ _ _ _ => true
  | .idle => false
  | .sendCommand _ => false
  | .sendAddresses _ _ => false
  | .sendData _ => false
  | .readData _ => false
  | .waitReady _ => false
  | .measureBusy _ _ => false
  | .reset => false
  | .readId _ _ => false
  | .readUniqueId => false
  | .readParameterPage _ _ => false
  | .pageRead _ _ _ _ _ => false
  | .changeReadColumn _ _ => false
  | .pageProgram _ _ _ _ => false
  | .blockErase _ _ => false
  | .setFeatures _ => false
  | .getFeatures _ => false
  | .readStatus => false
  | .partialErase _ _ _ => false
  | .tlcSubpageProgram _ _ _ _ => false
  | .partialProgram _ _ _ _ _ => false
  | .tRead _ _ _ _ _ _ _ => false

/-- A loop that lowers WP when it leaves the operation early. -/
def Poll.raisedWp : Poll → Bool
  | .untilReady => false
  | .waitBound _ => false
  | .guardReady raisedWp => raisedWp
  | .busyAssert _ raisedWp => raisedWp
  | .busyComplete _ => false

/-- The result code of a loop that leaves the operation early. -/
def Poll.earlyCode : Poll → Option Byte
  | .untilReady => none
  | .waitBound _ => some resTimeout
  | .guardReady _ => some resDeviceNotResponding
  | .busyAssert _ _ => some resOk
  | .busyComplete _ => none

/-- An entry that writes WP neither itself nor by leaving early. -/
def Micro.leavesWp : Micro → Bool
  | .w .wp _ => false
  | .wInv .wp => false
  | .pollRb k => !k.raisedWp
  | .pollClk k => !k.raisedWp
  | _ => true

/-- From this level of WP the steps left end, on every path, with WP low. -/
def protectedAtExit : Level → List Micro → Bool
  | wp, [] => !wp
  | _, .w .wp v :: rest => protectedAtExit v rest
  | wp, .wInv .wp :: rest => protectedAtExit (!wp) rest
  | wp, .pollRb k :: rest => (k.earlyCode.isNone || k.raisedWp || !wp) && protectedAtExit wp rest
  | wp, .pollClk k :: rest => (k.earlyCode.isNone || k.raisedWp || !wp) && protectedAtExit wp rest
  | wp, .done _ :: _ => !wp
  | wp, _ :: rest => protectedAtExit wp rest

/-- The result codes the steps left can end with. -/
def endCodes : List Micro → List Byte
  | [] => [resOk]
  | .done code :: _ => [code]
  | .pollRb k :: rest => k.earlyCode.toList ++ endCodes rest
  | .pollClk k :: rest => k.earlyCode.toList ++ endCodes rest
  | _ :: rest => endCodes rest

/-- The clock reads among the events of a run. -/
def clockReads : List Event → List Word64
  | [] => []
  | .clk t :: es => t :: clockReads es
  | _ :: es => clockReads es

/-! ## Named assumptions about the environment -/

/-- `DeviceResponds` (R78), for the samples that are not scripted: R/B# sampled for ever is 1 at some sample. -/
def DeviceResponds : Prop := ∀ n, ∃ k, n ≤ k ∧ Config.rbDraw k = true

/-- `ClockAdvances` (R209), for the reads that are not scripted: the values drawn pass every bound. -/
def ClockAdvances : Prop := ∀ (n : Nat) (t : Word64), ∃ k, n ≤ k ∧ t.toNat ≤ (Config.clkDraw k).toNat

end Sys2Proof.Machine
end

