-- ==== Sys2Proof/Certificates/Slice0/Obligations.lean ====
section
/-! DEFINITION. The statements for the provers. A statement that cites decisions D<n> of spec/92_eei_decisions.md, or names
a row of the assumption log, rests on a choice and has basis 'derived'. -/

open Sys2Proof Sys2Proof.Machine

/-- O1. Written-out requests decode to their operations. -/
def Obligations.DecodeOperationCodes : Prop :=
  decodeTableWord 8 0b00000000 = some .idle ∧
  decodeTableWord 8 0b00001000 = some (.measureBusy 0 0) ∧
  decodeTableWord 8 0b00010000 = some .reset ∧
  decodeTableWord 8 0b00011101 = some (.partialProgram #v[0, 0, 0, 0, 0, 0, 0, 0] 0 0 0 0) ∧
  decodeTableWord 8 0b00100010 = some (.tErase #v[0, 0, 0, 0, 0, 0, 0, 0] 0 0 0) ∧
  decodeTableWord 8 0b00011111 = none ∧
  decode { Request.zero with
    op := 0b00010100, addr := #v[0, 0, 0, 1, 0, 0, 0, 0], alen := 5, count := 2, flags := 0b00000110, ccyc := 2 } =
    .ok (.pageRead #v[0, 0, 0, 1, 0, 0, 0, 0] 5 2 true (some 2)) ∧
  decode { Request.zero with
    op := 0b00100000, addr := #v[0, 0, 0, 2, 0, 0, 0, 0], alen := 5, count := 4, flags := 0b00001000 } =
    .ok (.tRead #v[0, 0, 0, 2, 0, 0, 0, 0] 5 4 false true 0 0)

/-- O2. Decoding the encoding of any instruction gives it back. -/
def Obligations.DecodeInvertsEncode : Prop :=
  ∀ i : Instr, decode (encode i) = .ok i ∧ (encode i).op.toNat ∈ operationCodes ∧
    (encode i).flags.extractLsb' 5 3 = 0

/-- O3. A defined flag bit the operation does not read is ignored. -/
def Obligations.DecodeIgnoresUnreadFlags : Prop :=
  ∀ (r : Request) (flags : Byte), r.flags.extractLsb' 5 3 = 0 → flags.extractLsb' 5 3 = 0 →
    flags &&& flagsRead r.op.toNat = r.flags &&& flagsRead r.op.toNat →
    decode { r with flags := flags } = decode r

/-- O4. Which requests the decoder rejects, and with which name. -/
def Obligations.DecoderRejectsByName : Prop :=
  ∀ r : Request,
    (decode r = .error (.illegalOp r.op) ↔ r.op.toNat ∉ operationCodes) ∧
    (r.op.toNat ∈ operationCodes →
      (decode r = .error (.reservedFlags r.flags) ↔ r.flags.extractLsb' 5 3 ≠ 0)) ∧
    (r.op.toNat ∈ operationCodes → r.flags.extractLsb' 5 3 = 0 → ∃ i, decode r = .ok i)

/-- O5. A request the decoder rejects sets RES = 5; beside it only what the host wrote to present it changes. RES = 5 is
R93 and R132; that the operand fields hold the refused request (`opnd := r`) is the model's choice (log 13). -/
def Obligations.RejectedRequestSetsCodeFive : Prop :=
  ∀ (s : State) (r : Request) (rest : List HostMove) (e : DecodeError),
    s.run = .ready → s.host = .request r :: rest → decode r = .error e →
      step s = .next { s with host := rest, opnd := r, res := 5 }

/-- O6. An operand outside its range is refused with code 5 and nothing else changes. -/
def Obligations.OutOfRangeOperandsRefused : Prop :=
  ∀ (i : Instr) (s : State), s.run = .ready → i.wellFormed s.mode s.maxBurst = false →
    Sys2Proof.Machine.exec i s = .next { s with res := 5 }

/-- O7. Every instruction with operands in range runs. Acceptance is R132. The last clause (READY, or RUNNING at an R/B#
sample with no scripted answer left) is how far one step of the model goes: the model's choice (log 1). -/
def Obligations.WellFormedRequestsAccepted : Prop :=
  ∀ (i : Instr) (s : State), s.Fresh → i.wellFormed s.mode s.maxBurst = true →
    ∃ t, Sys2Proof.Machine.exec i s = .next t ∧ t.res ≠ 5 ∧ HostSideKept s t ∧
      (t.run = .ready ∨ (t.run = .running ∧ atRbSample t.todo = true ∧ t.env.rb = []))

/-- O8. A step runs the instruction the presented request decodes to. -/
def Obligations.StepRunsTheDecodedRequest : Prop :=
  ∀ (s : State) (r : Request) (rest : List HostMove) (i : Instr),
    s.run = .ready → s.host = .request r :: rest → decode r = .ok i →
      step s = Sys2Proof.Machine.exec i { s with host := rest, opnd := r }

/-- O9. A READY block with no move of the host waits. -/
def Obligations.ReadyBlockWaitsForTheHost : Prop :=
  ∀ s : State, s.run = .ready → s.host = [] → step s = .next s

/-- O10. While RUNNING the host has no move but BLOCK_RESET. -/
def Obligations.RunningBlockTakesNoRequest : Prop :=
  ∀ s : State, s.run = .running → s.host.head? ≠ some .blockReset →
    step s = resume s ∧ (s.slice = some 0 → step s = engineStep s) ∧ ∀ t, step s = .next t → HostSideKept s t

/-- O11. BLOCK_RESET leaves the reset values from any state, and the clock, the timing values and the trace alone. -/
def Obligations.BlockResetFromAnyState : Prop :=
  ∀ (s : State) (rest : List HostMove), s.host = .blockReset :: rest →
    ∃ t, step s = .next t ∧ t.run = .ready ∧ t.seq = 0 ∧ t.idx = 0 ∧ t.todo = [] ∧
      t.pins = { ce := true, we := true, re := true, cle := false, ale := false, wp := false, dqs := false, dqsc := true,
                 dqOut := 0x00, dqDir := .out, strobeDir := .inp } ∧
      t.opnd = { Request.zero with txbuf := s.opnd.txbuf } ∧ t.res = 0 ∧ t.rxlen = 0 ∧ NoRecord t ∧ t.mode = .async ∧
      t.timing = s.timing ∧ t.maxBurst = s.maxBurst ∧ t.idleOrder = s.idleOrder ∧ t.clkLast = s.clkLast ∧
      t.trace = s.trace ∧ t.env = s.env ∧ t.slice = s.slice ∧ t.host = rest

/-- O12. The state after reset. -/
def Obligations.ResetValues : Prop :=
  Sys2Proof.Machine.State.reset.run = .ready ∧
  Sys2Proof.Machine.State.reset.seq = 0 ∧
  Sys2Proof.Machine.State.reset.idx = 0 ∧
  Sys2Proof.Machine.State.reset.pins =
    { ce := true, we := true, re := true, cle := false, ale := false, wp := false, dqs := false, dqsc := true,
      dqOut := 0x00, dqDir := .out, strobeDir := .inp } ∧
  { Sys2Proof.Machine.State.reset.opnd with txbuf := [] } =
    { op := 0, arg0 := 0, arg1 := 0, addr := #v[0, 0, 0, 0, 0, 0, 0, 0], alen := 0, count := 0, flags := 0, ccyc := 0,
      timeout := 0, tAssert := 0, tComplete := 0, loops := 0, txbuf := [] } ∧
  Sys2Proof.Machine.State.reset.res = 0 ∧
  Sys2Proof.Machine.State.reset.rxlen = 0 ∧
  Sys2Proof.Machine.State.reset.record =
    { durationNs := 0, rawStatusByte := 0, readyFlag := false, passFlag := false, busyDetected := false,
      timedOut := false } ∧
  Sys2Proof.Machine.State.reset.fetched = false ∧
  Sys2Proof.Machine.State.reset.mode = .async ∧
  Sys2Proof.Machine.State.reset.idleOrder = [.ce, .we, .re, .cle, .ale, .dqDir, .dq, .strobeDir]

/-- O13. The host writes MODE and the timing parameters while READY. -/
def Obligations.HostWritesConfiguration : Prop :=
  ∀ (s : State) (rest : List HostMove), s.run = .ready →
    (∀ m, s.host = .setMode m :: rest → step s = .next { s with host := rest, mode := m }) ∧
    (∀ v, s.host = .setTiming v :: rest → step s = .next { s with host := rest, timing := v })

/-- O14. IDLE makes the pins idle from any pins and writes no WP, DQS or DQSC. -/
def Obligations.IdleReturnsToIdleState : Prop :=
  ∀ s : State, s.run = .ready → s.idleOrder.complete = true → s.slice = none →
    ∃ t es, Sys2Proof.Machine.exec .idle s = .next t ∧ Ended s t 0 ∧ t.pins.isIdle = true ∧
      t.pins = { s.pins with
        ce := true, we := true, re := true, cle := false, ale := false, dqDir := .out, dqOut := 0x00,
        strobeDir := .inp } ∧
      t.trace = s.trace ++ es ∧ (s.pins.isIdle = true → levelChanges s.pins es = [] ∧ observe s.pins es = []) ∧
      NothingReceived s t ∧ NoRecord t ∧ Sampled s t 0 0

/-- O15. SEND_COMMAND gives one command cycle with its byte. SEND_COMMAND (R121, R133). The bus cycle is read from the
trace at the rising edge of WE# (log 11). -/
def Obligations.SendCommandGivesOneCommandCycle : Prop :=
  ∀ (b : Byte) (s : State), s.Fresh →
    ∃ t es, Sys2Proof.Machine.exec (.sendCommand b) s = .next t ∧ Ended s t 0 ∧ t.pins = s.pins ∧
      t.trace = s.trace ++ es ∧ observe s.pins es = [.cycle (.command b)] ∧
      edges .we false s.pins es = 1 ∧ edges .we true s.pins es = 1 ∧
      alongTrace byteHeld s.pins es = true ∧ alongTrace strobeSelected s.pins es = true ∧
      NothingReceived s t ∧ NoRecord t ∧ Sampled s t 0 0

/-- O16. SEND_ADDRESSES gives ALEN address cycles in index order. SEND_ADDRESSES (R122, R133). The bus cycles are read
from the trace at the rising edges of WE# (log 11). -/
def Obligations.SendAddressesGivesAddressCycles : Prop :=
  ∀ (a : AddrArray) (n : BitVec 4) (s : State), s.Fresh → n.toNat ≤ 8 →
    ∃ t es, Sys2Proof.Machine.exec (.sendAddresses a n) s = .next t ∧ Ended s t 0 ∧ t.pins = s.pins ∧
      t.trace = s.trace ++ es ∧
      observe s.pins es = (a.toList.take n.toNat).map (fun b => .cycle (.address b)) ∧
      edges .we false s.pins es = n.toNat ∧ edges .we true s.pins es = n.toNat ∧
      alongTrace byteHeld s.pins es = true ∧ alongTrace strobeSelected s.pins es = true ∧
      NothingReceived s t ∧ NoRecord t ∧ Sampled s t 0 0

/-- O17. SEND_DATA in ASYNC mode gives COUNT data-in cycles. SEND_DATA in ASYNC mode (R123, R133). The bus cycles are
read from the trace at the rising edges of WE# (log 11); bytes past the listed TXBUF read 0x00 (log 8). -/
def Obligations.SendDataAsyncGivesDataCycles : Prop :=
  ∀ (c : Word32) (s : State), s.Fresh → s.mode = .async → c.toNat ≤ s.maxBurst →
    ∃ t es, Sys2Proof.Machine.exec (.sendData c) s = .next t ∧ Ended s t 0 ∧ t.pins = s.pins ∧
      t.trace = s.trace ++ es ∧
      observe s.pins es = (List.range c.toNat).map (fun k => .cycle (.dataIn (Memory.read s.opnd.txbuf k))) ∧
      edges .we false s.pins es = c.toNat ∧ edges .we true s.pins es = c.toNat ∧
      edges .dqs true s.pins es = 0 ∧ edges .dqs false s.pins es = 0 ∧
      alongTrace byteHeld s.pins es = true ∧ alongTrace strobeSelected s.pins es = true ∧
      NothingReceived s t ∧ NoRecord t ∧ Sampled s t 0 0

/-- O18. SEND_DATA in TOGGLE mode gives COUNT DQS transitions and no WE# pulse. SEND_DATA in TOGGLE mode (R124, R133;
the strobe shape is decision D9 of the spec). Bytes past the listed TXBUF read 0x00 (log 8). -/
def Obligations.SendDataToggleGivesStrobeTransitions : Prop :=
  ∀ (c : Word32) (s : State), s.Fresh → s.mode = .toggle → c.toNat ≤ s.maxBurst → c.toNat % 2 = 0 →
    ∃ t es, Sys2Proof.Machine.exec (.sendData c) s = .next t ∧ Ended s t 0 ∧
      t.pins = { s.pins with dqs := false, dqsc := true } ∧ t.trace = s.trace ++ es ∧
      observe s.pins es = (List.range c.toNat).map (fun k => .cycle (.dataIn (Memory.read s.opnd.txbuf k))) ∧
      edges .we false s.pins es = 0 ∧ edges .we true s.pins es = 0 ∧
      (s.pins.dqs = false → s.pins.dqsc = true →
        edges .dqs true s.pins es = c.toNat / 2 ∧ edges .dqs false s.pins es = c.toNat / 2 ∧
        edges .dqsc true s.pins es = c.toNat / 2 ∧ edges .dqsc false s.pins es = c.toNat / 2) ∧
      alongTrace strobeSelected s.pins es = true ∧ NothingReceived s t ∧ NoRecord t ∧ Sampled s t 0 0

/-- O19. READ_DATA in ASYNC mode stores one sample per RE# pulse. READ_DATA in ASYNC mode (R125, R126, R133). The bus
cycles are those `observe` reads from the trace (latch edge: log 11); the R/B# answers are scripted in the state and
DQ answers past the script are free values (log 10). -/
def Obligations.ReadDataAsyncSamplesEachPulse : Prop :=
  ∀ (c : Word32) (s : State) (k : Nat) (more : List Level), s.Fresh → s.mode = .async → c.toNat ≤ s.maxBurst →
    s.env.rb = List.replicate k false ++ true :: more →
    ∃ t es, Sys2Proof.Machine.exec (.readData c) s = .next t ∧ Ended s t 0 ∧ t.pins = s.pins ∧
      t.trace = s.trace ++ es ∧ observe s.pins es = seenRead s.timing k (dqAnswers s c.toNat) ∧
      edges .re false s.pins es = c.toNat ∧ edges .re true s.pins es = c.toNat ∧
      edges .we false s.pins es = 0 ∧ edges .we true s.pins es = 0 ∧
      readActivity s.pins es = asyncReadActivity (dqAnswers s c.toNat) ∧
      alongTrace sampledWhileReLow s.pins es = true ∧ alongTrace strobeSelected s.pins es = true ∧
      Received s t (dqAnswers s c.toNat) ∧ NoRecord t ∧ Sampled s t (k + 1) c.toNat

/-- O20. READ_DATA in TOGGLE mode stores one sample per RE# edge. READ_DATA in TOGGLE mode (R125, R127, R133). The bus
cycles are those `observe` reads from the trace (latch edge: log 11); the R/B# answers are scripted in the state and
DQ answers past the script are free values (log 10). -/
def Obligations.ReadDataToggleSamplesEachEdge : Prop :=
  ∀ (c : Word32) (s : State) (k : Nat) (more : List Level), s.Fresh → s.mode = .toggle → c.toNat ≤ s.maxBurst →
    s.env.rb = List.replicate k false ++ true :: more →
    ∃ t es, Sys2Proof.Machine.exec (.readData c) s = .next t ∧ Ended s t 0 ∧ t.pins = s.pins ∧
      t.trace = s.trace ++ es ∧ observe s.pins es = seenRead s.timing k (dqAnswers s c.toNat) ∧
      edges .re false s.pins es = (c.toNat + 1) / 2 ∧ edges .re true s.pins es = (c.toNat + 1) / 2 ∧
      edges .we false s.pins es = 0 ∧ edges .we true s.pins es = 0 ∧
      readActivity s.pins es = toggleReadActivity (dqAnswers s c.toNat) ∧
      alongTrace strobeSelected s.pins es = true ∧
      Received s t (dqAnswers s c.toNat) ∧ NoRecord t ∧ Sampled s t (k + 1) c.toNat

/-- O21. WAIT_READY without a timeout samples R/B# until it is 1. WAIT_READY (R128). The R/B# answers are scripted in
the state (log 10). -/
def Obligations.WaitReadySamplesUntilReady : Prop :=
  ∀ (s : State) (k : Nat) (more : List Level), s.Fresh → s.env.rb = List.replicate k false ++ true :: more →
    ∃ t, Sys2Proof.Machine.exec (.waitReady none) s = .next t ∧ Ended s t 0 ∧ t.pins = s.pins ∧
      t.trace = s.trace ++ List.replicate k (.rb false) ++ [.rb true] ∧
      NothingReceived s t ∧ NoRecord t ∧ Sampled s t (k + 1) 0

/-- O22. WAIT_READY with a timeout: READY at the first sample of 1, TIMEOUT at the first clock read at or past the
bound. WAIT_READY with a bound (R128, D14). The R/B# and clock answers are scripted in the state (log 5, log 10). -/
def Obligations.BoundedWaitReadyOrTimeout : Prop :=
  ∀ (s : State) (limit t0 : Word64) (ts : List Word64) (more : List Level) (later : List Word64), s.Fresh →
    risingFrom s.clkLast (t0 :: ts) = true → allWithin t0 limit ts = true →
    (s.env.rb = List.replicate ts.length false ++ true :: more → s.env.clk = t0 :: ts ++ later →
      ∃ t, Sys2Proof.Machine.exec (.waitReady (some limit)) s = .next t ∧ Ended s t 0 ∧ t.pins = s.pins ∧
        t.trace = s.trace ++ .clk t0 :: ts.flatMap (fun x => [.rb false, .clk x]) ++ [.rb true] ∧
        NothingReceived s t ∧ NoRecord t ∧ Clocked s t (ts.length + 1) 0 (ts.length + 1) (ts.getLastD t0)) ∧
    (∀ last : Word64, (ts.getLastD t0).toNat ≤ last.toNat → limit.toNat ≤ last.toNat - t0.toNat →
      s.env.rb = List.replicate (ts.length + 1) false ++ more → s.env.clk = t0 :: ts ++ last :: later →
      ∃ t, Sys2Proof.Machine.exec (.waitReady (some limit)) s = .next t ∧ Ended s t 7 ∧ t.pins = s.pins ∧
        t.trace = s.trace ++ .clk t0 :: ts.flatMap (fun x => [.rb false, .clk x]) ++ [.rb false, .clk last] ∧
        NothingReceived s t ∧ NoRecord t ∧ Clocked s t (ts.length + 1) 0 (ts.length + 2) last)

/-- O23. ENABLE_ERASE is one step, W(WP, 1). -/
def Obligations.EnableEraseRaisesWp : Prop :=
  ∀ s : State, s.run = .ready → s.slice = none →
    ∃ t, Sys2Proof.Machine.exec .enableErase s = .next t ∧ Ended s t 0 ∧ t.pins = { s.pins with wp := true } ∧
      t.trace = s.trace ++ [.w .wp true] ∧ (s.pins.wp = true → levelChanges s.pins [.w .wp true] = []) ∧
      NothingReceived s t ∧ NoRecord t ∧ Sampled s t 0 0

/-- O24. DISABLE_ERASE is one step, W(WP, 0). -/
def Obligations.DisableEraseLowersWp : Prop :=
  ∀ s : State, s.run = .ready → s.slice = none →
    ∃ t, Sys2Proof.Machine.exec .disableErase s = .next t ∧ Ended s t 0 ∧ t.pins = { s.pins with wp := false } ∧
      t.trace = s.trace ++ [.w .wp false] ∧ (s.pins.wp = false → levelChanges s.pins [.w .wp false] = []) ∧
      NothingReceived s t ∧ NoRecord t ∧ Sampled s t 0 0

/-- O25. RESET sends command 0xFF, waits tWB and waits ready. RESET (R150). The bus cycles are those `observe` reads
from the trace (latch edge: log 11); the R/B# answers are scripted in the state and DQ answers past the script are
free values (log 10). -/
def Obligations.ResetSendsTheResetCommand : Prop :=
  ∀ (s : State) (k : Nat) (more : List Level), s.Fresh → s.env.rb = readyAfter k ++ more →
    ∃ t, Sys2Proof.Machine.exec .reset s = .next t ∧
      Completed s t s.pins
        (seenCmd 0xFF ++ seenDly s.timing .tWB ++ seenReady k) (k + 1) 0 ∧
      NothingReceived s t

/-- O26. READ_ID sends 0x90 and the ID address and reads COUNT bytes. READ_ID (R151), in either mode. The bus cycles are
those `observe` reads from the trace (latch edge: log 11); the R/B# answers are scripted in the state and DQ answers
past the script are free values (log 10). -/
def Obligations.ReadIdReadsTheId : Prop :=
  ∀ (b : Byte) (c : Word32) (s : State) (k : Nat) (more : List Level), s.Fresh → c.toNat ≤ s.maxBurst →
    s.env.rb = readyAfter k ++ more →
    ∃ t, Sys2Proof.Machine.exec (.readId b c) s = .next t ∧
      Completed s t s.pins
        (seenCmd 0x90 ++ seenAddr [b] ++ seenDly s.timing .tWHR ++ seenRead s.timing k (dqAnswers s c.toNat)) (k + 1) c.toNat ∧
      Received s t (dqAnswers s c.toNat)

/-- O27. READ_UNIQUE_ID sends 0xED and address 0x00, waits and reads 32 bytes. READ_UNIQUE_ID (R152), in either mode.
The bus cycles are those `observe` reads from the trace (latch edge: log 11); the R/B# answers are scripted in the
state and DQ answers past the script are free values (log 10). -/
def Obligations.ReadUniqueIdReadsThirtyTwoBytes : Prop :=
  ∀ (s : State) (k l : Nat) (more : List Level), s.Fresh →
    s.env.rb = readyAfter k ++ (readyAfter l ++ more) →
    ∃ t, Sys2Proof.Machine.exec .readUniqueId s = .next t ∧
      Completed s t s.pins
        (seenCmd 0xED ++ seenAddr [0x00] ++ seenDly s.timing .tWB ++ seenReady k ++ seenRead s.timing l (dqAnswers s 32)) (k + 1 + (l + 1)) 32 ∧
      Received s t (dqAnswers s 32)

/-- O28. READ_PARAMETER_PAGE, bulk: 0xEC, address 0x00 or 0x40, wait, 256 bytes. READ_PARAMETER_PAGE, bulk form (R153),
in either mode. The bus cycles are those `observe` reads from the trace (latch edge: log 11); the R/B# answers are
scripted in the state and DQ answers past the script are free values (log 10). -/
def Obligations.ReadParameterPageBulk : Prop :=
  ∀ (jedec : Bool) (s : State) (k l : Nat) (more : List Level), s.Fresh →
    s.env.rb = readyAfter k ++ (readyAfter l ++ more) →
    ∃ t, Sys2Proof.Machine.exec (.readParameterPage jedec none) s = .next t ∧
      Completed s t s.pins
        (seenCmd 0xEC ++ seenAddr [if jedec then 0x40 else 0x00] ++ seenDly s.timing .tWB ++ seenReady k ++
          seenRead s.timing l (dqAnswers s 256)) (k + 1 + (l + 1)) 256 ∧
      Received s t (dqAnswers s 256)

/-- O29. READ_PARAMETER_PAGE, bytewise: byte 0, then a column change before each of the other 255 bytes.
READ_PARAMETER_PAGE, bytewise form (R154), in either mode. The bus cycles are those `observe` reads from the trace
(latch edge: log 11); the R/B# answers are scripted in the state and DQ answers past the script are free values (log
10). -/
def Obligations.ReadParameterPageBytewise : Prop :=
  ∀ (jedec : Bool) (cc : BitVec 2) (s : State) (k l : Nat) (ks : List Nat) (more : List Level), s.Fresh → (cc = 1 ∨ cc = 2) →
    ks.length = 255 → s.env.rb = readyAfter k ++ (readyAfter l ++ (readyRuns ks ++ more)) →
    ∃ t, Sys2Proof.Machine.exec (.readParameterPage jedec (some cc)) s = .next t ∧
      Completed s t s.pins
        (seenCmd 0xEC ++ seenAddr [if jedec then 0x40 else 0x00] ++ seenDly s.timing .tWB ++ seenReady k ++
          seenRead s.timing l (dqAnswers s 1) ++ seenColumnReads s.timing cc 1 (ks.zip ((dqAnswers s 256).drop 1))) (k + 1 + (l + 1) + samplesOf ks) 256 ∧
      Received s t (dqAnswers s 256)

/-- O30. PAGE_READ, bulk: the optional 0x00, then 0x00, ADDR, 0x30, wait and one read burst. PAGE_READ, bulk form
(R160), in either mode. The bus cycles are those `observe` reads from the trace (latch edge: log 11); the R/B#
answers are scripted in the state and DQ answers past the script are free values (log 10). -/
def Obligations.PageReadBulk : Prop :=
  ∀ (a : AddrArray) (n : BitVec 4) (c : Word32) (pre00 : Bool) (s : State) (k l : Nat) (more : List Level), s.Fresh → n.toNat ≤ 8 →
    c.toNat ≤ s.maxBurst → s.env.rb = readyAfter k ++ (readyAfter l ++ more) →
    ∃ t, Sys2Proof.Machine.exec (.pageRead a n c pre00 none) s = .next t ∧
      Completed s t s.pins
        ((if pre00 then seenCmd 0x00 else []) ++ seenCmd 0x00 ++ seenAddr (a.toList.take n.toNat) ++ seenCmd 0x30 ++
          seenDly s.timing .tWB ++ seenReady k ++ seenRead s.timing l (dqAnswers s c.toNat)) (k + 1 + (l + 1)) c.toNat ∧
      Received s t (dqAnswers s c.toNat)

/-- O31. PAGE_READ, bytewise: a change to column i before byte i, one byte at a time. PAGE_READ, bytewise form (R161),
in either mode. The bus cycles are those `observe` reads from the trace (latch edge: log 11); the R/B# answers are
scripted in the state and DQ answers past the script are free values (log 10). -/
def Obligations.PageReadBytewise : Prop :=
  ∀ (a : AddrArray) (n : BitVec 4) (c : Word32) (pre00 : Bool) (cc : BitVec 2) (s : State) (k : Nat) (ks : List Nat)
    (more : List Level), s.Fresh → n.toNat ≤ 8 → c.toNat ≤ s.maxBurst → (cc = 1 ∨ cc = 2) → ks.length = c.toNat →
    s.env.rb = readyAfter k ++ (readyRuns ks ++ more) →
    ∃ t, Sys2Proof.Machine.exec (.pageRead a n c pre00 (some cc)) s = .next t ∧
      Completed s t s.pins
        ((if pre00 then seenCmd 0x00 else []) ++ seenCmd 0x00 ++ seenAddr (a.toList.take n.toNat) ++ seenCmd 0x30 ++
          seenDly s.timing .tWB ++ seenReady k ++ seenColumnReads s.timing cc 0 (ks.zip (dqAnswers s c.toNat))) (k + 1 + samplesOf ks) c.toNat ∧
      Received s t (dqAnswers s c.toNat)

/-- O32. CHANGE_READ_COLUMN sends 0x05, the column bytes, 0xE0 and waits tCCS. CHANGE_READ_COLUMN (R162). The bus cycles
are those `observe` reads from the trace (log 11). -/
def Obligations.ChangeReadColumnSendsTheColumn : Prop :=
  ∀ (a : AddrArray) (n : BitVec 4) (s : State), s.Fresh → n.toNat ≤ 8 →
    ∃ t, Sys2Proof.Machine.exec (.changeReadColumn a n) s = .next t ∧
      Completed s t s.pins
        (seenCmd 0x05 ++ seenAddr (a.toList.take n.toNat) ++ seenCmd 0xE0 ++ seenDly s.timing .tCCS) 0 0 ∧
      NothingReceived s t

/-- O33. PAGE_PROGRAM sends 0x80, ADDR, tADL, the data, the confirm byte, and waits. PAGE_PROGRAM (R170). The bus cycles
are those `observe` reads from the trace (latch edge: log 11); the R/B# answers are scripted in the state and DQ
answers past the script are free values (log 10). -/
def Obligations.PageProgramSendsAddressDataConfirm : Prop :=
  ∀ (a : AddrArray) (n : BitVec 4) (c : Word32) (confirm : Byte) (s : State) (k : Nat) (more : List Level), s.Fresh → n.toNat ≤ 8 →
    c.toNat ≤ s.maxBurst → (s.mode = .toggle → c.toNat % 2 = 0) → s.env.rb = readyAfter k ++ more →
    ∃ t, Sys2Proof.Machine.exec (.pageProgram a n c confirm) s = .next t ∧
      Completed s t (s.pins.afterDataIn s.mode)
        (seenCmd 0x80 ++ seenAddr (a.toList.take n.toNat) ++ seenDly s.timing .tADL ++
          seenData (Memory.take s.opnd.txbuf c.toNat) ++ seenCmd confirm ++ seenDly s.timing .tWB ++ seenReady k) (k + 1) 0 ∧
      NothingReceived s t

/-- O34. BLOCK_ERASE sends 0x60, ADDR, 0xD0 and waits. BLOCK_ERASE (R172). The bus cycles are those `observe` reads from
the trace (latch edge: log 11); the R/B# answers are scripted in the state and DQ answers past the script are free
values (log 10). -/
def Obligations.BlockEraseSendsRowAndConfirm : Prop :=
  ∀ (a : AddrArray) (n : BitVec 4) (s : State) (k : Nat) (more : List Level), s.Fresh → n.toNat ≤ 8 →
    s.env.rb = readyAfter k ++ more →
    ∃ t, Sys2Proof.Machine.exec (.blockErase a n) s = .next t ∧
      Completed s t s.pins
        (seenCmd 0x60 ++ seenAddr (a.toList.take n.toNat) ++ seenCmd 0xD0 ++ seenDly s.timing .tWB ++ seenReady k) (k + 1) 0 ∧
      NothingReceived s t

/-- O35. SET_FEATURES sends 0xEF, the feature address, tADL, four bytes, and waits. SET_FEATURES (R180). The bus cycles
are those `observe` reads from the trace (latch edge: log 11); the R/B# answers are scripted in the state and DQ
answers past the script are free values (log 10). -/
def Obligations.SetFeaturesSendsFourBytes : Prop :=
  ∀ (f : Byte) (s : State) (k : Nat) (more : List Level), s.Fresh → s.env.rb = readyAfter k ++ more →
    ∃ t, Sys2Proof.Machine.exec (.setFeatures f) s = .next t ∧
      Completed s t (s.pins.afterDataIn s.mode)
        (seenCmd 0xEF ++ seenAddr [f] ++ seenDly s.timing .tADL ++ seenData (Memory.take s.opnd.txbuf 4) ++
          seenDly s.timing .tWB ++ seenReady k) (k + 1) 0 ∧
      NothingReceived s t

/-- O36. GET_FEATURES sends 0xEE, the feature address, waits and reads four bytes. GET_FEATURES (R182), in either mode.
The bus cycles are those `observe` reads from the trace (latch edge: log 11); the R/B# answers are scripted in the
state and DQ answers past the script are free values (log 10). -/
def Obligations.GetFeaturesReadsFourBytes : Prop :=
  ∀ (f : Byte) (s : State) (k l : Nat) (more : List Level), s.Fresh →
    s.env.rb = readyAfter k ++ (readyAfter l ++ more) →
    ∃ t, Sys2Proof.Machine.exec (.getFeatures f) s = .next t ∧
      Completed s t s.pins
        (seenCmd 0xEE ++ seenAddr [f] ++ seenDly s.timing .tWB ++ seenReady k ++ seenRead s.timing l (dqAnswers s 4)) (k + 1 + (l + 1)) 4 ∧
      Received s t (dqAnswers s 4)

/-- O37. READ_STATUS sends 0x70, waits tWHR and reads one byte when the device is ready. READ_STATUS (R184, R185), in
either mode. The bus cycles are those `observe` reads from the trace (latch edge: log 11); the R/B# answers are
scripted in the state and DQ answers past the script are free values (log 10). -/
def Obligations.ReadStatusReadsOneByte : Prop :=
  ∀ (s : State) (k : Nat) (more : List Level), s.Fresh → s.env.rb = readyAfter k ++ more →
    ∃ t, Sys2Proof.Machine.exec .readStatus s = .next t ∧
      Completed s t s.pins
        (seenCmd 0x70 ++ seenDly s.timing .tWHR ++ seenRead s.timing k (dqAnswers s 1)) (k + 1) 1 ∧
      Received s t (dqAnswers s 1)

/-- O38. PARTIAL_ERASE sends 0x60, ADDR, 0xD0, spins, sends 0xFF and waits. PARTIAL_ERASE (R190; the order is decision
D34 of the spec). The bus cycles are those `observe` reads from the trace (latch edge: log 11); the R/B# answers are
scripted in the state and DQ answers past the script are free values (log 10). -/
def Obligations.PartialEraseAborts : Prop :=
  ∀ (a : AddrArray) (n : BitVec 4) (loops : Word32) (s : State) (k : Nat) (more : List Level), s.Fresh → n.toNat ≤ 8 →
    s.env.rb = readyAfter k ++ more →
    ∃ t, Sys2Proof.Machine.exec (.partialErase a n loops) s = .next t ∧
      Completed s t s.pins
        (seenCmd 0x60 ++ seenAddr (a.toList.take n.toNat) ++ seenCmd 0xD0 ++ [.spin loops] ++ seenCmd 0xFF ++
          seenDly s.timing .tWB ++ seenReady k) (k + 1) 0 ∧
      NothingReceived s t

/-- O39. TLC_SUBPAGE_PROGRAM sends the index, the program sequence and 0x1A or 0x10. TLC_SUBPAGE_PROGRAM (R192). The bus
cycles are those `observe` reads from the trace (latch edge: log 11); the R/B# answers are scripted in the state and
DQ answers past the script are free values (log 10). -/
def Obligations.TlcSubpageProgramPicksTheConfirm : Prop :=
  ∀ (x : Byte) (a : AddrArray) (n : BitVec 4) (c : Word32) (s : State) (k : Nat) (more : List Level), s.Fresh → (x = 1 ∨ x = 2 ∨ x = 3) →
    n.toNat ≤ 8 → c.toNat ≤ s.maxBurst → (s.mode = .toggle → c.toNat % 2 = 0) → s.env.rb = readyAfter k ++ more →
    ∃ t, Sys2Proof.Machine.exec (.tlcSubpageProgram x a n c) s = .next t ∧
      Completed s t (s.pins.afterDataIn s.mode)
        (seenCmd x ++ seenCmd 0x80 ++ seenAddr (a.toList.take n.toNat) ++ seenDly s.timing .tADL ++ seenData (Memory.take s.opnd.txbuf c.toNat) ++
          seenCmd (if x = 3 then 0x10 else 0x1A) ++ seenDly s.timing .tWB ++ seenReady k) (k + 1) 0 ∧
      NothingReceived s t

/-- O40. PARTIAL_PROGRAM sends the program sequence, spins, sends 0xFF and waits. PARTIAL_PROGRAM (R194; the sequence is
decision D23 of the spec). The bus cycles are those `observe` reads from the trace (latch edge: log 11); the R/B#
answers are scripted in the state and DQ answers past the script are free values (log 10). -/
def Obligations.PartialProgramAborts : Prop :=
  ∀ (a : AddrArray) (n : BitVec 4) (c : Word32) (confirm : Byte) (loops : Word32) (s : State) (k : Nat)
    (more : List Level), s.Fresh → n.toNat ≤ 8 → c.toNat ≤ s.maxBurst → (s.mode = .toggle → c.toNat % 2 = 0) → s.env.rb = readyAfter k ++ more →
    ∃ t, Sys2Proof.Machine.exec (.partialProgram a n c confirm loops) s = .next t ∧
      Completed s t (s.pins.afterDataIn s.mode)
        (seenCmd 0x80 ++ seenAddr (a.toList.take n.toNat) ++ seenDly s.timing .tADL ++ seenData (Memory.take s.opnd.txbuf c.toNat) ++
          seenCmd confirm ++ [.spin loops] ++ seenCmd 0xFF ++ seenDly s.timing .tWB ++ seenReady k) (k + 1) 0 ∧
      NothingReceived s t

/-- O41. MEASURE_BUSY records the busy window it sees. MEASURE_BUSY, busy seen (R200). The R/B# and clock answers are
scripted in the state (log 5, log 10). -/
def Obligations.MeasureBusyRecordsTheWindow : Prop :=
  ∀ (ta tc : Word64) (s : State) (w : BusyWindow) (more : List Level) (later : List Word64), s.Fresh →
    s.env.rb = w.rb ++ more → s.env.clk = w.clk ++ later → risingFrom s.clkLast w.clk = true →
    w.within (if ta = 0 then 5000000 else ta) (if tc = 0 then 1000000000 else tc) = true →
    ∃ t, Sys2Proof.Machine.exec (.measureBusy ta tc) s = .next t ∧ Ended s t 0 ∧ t.pins = s.pins ∧ Shown s t w.seen ∧
      t.record = { durationNs := w.stop - w.start, rawStatusByte := 0, readyFlag := false, passFlag := false,
                   busyDetected := true, timedOut := w.late.isSome } ∧
      t.fetched = false ∧ NothingReceived s t ∧ Clocked s t w.rb.length 0 w.clk.length w.stop

/-- O42. MEASURE_BUSY that sees no fall leaves the record zero. MEASURE_BUSY, busy never seen (R200). The R/B# and clock
answers are scripted in the state (log 5, log 10). -/
def Obligations.MeasureBusyNeverSeen : Prop :=
  ∀ (ta tc : Word64) (s : State) (t0 last : Word64) (ts : List Word64) (more : List Level) (later : List Word64),
    s.Fresh → s.env.rb = List.replicate (ts.length + 1) true ++ more → s.env.clk = t0 :: (ts ++ last :: later) →
    risingFrom s.clkLast (t0 :: (ts ++ [last])) = true → allWithin t0 (if ta = 0 then 5000000 else ta) ts = true →
    (if ta = 0 then (5000000 : Word64) else ta).toNat ≤ last.toNat - t0.toNat →
    ∃ t, Sys2Proof.Machine.exec (.measureBusy ta tc) s = .next t ∧ Ended s t 0 ∧ t.pins = s.pins ∧
      Shown s t (.clk t0 :: seenRounds true (ts ++ [last])) ∧ NoRecord t ∧ NothingReceived s t ∧
      Clocked s t (ts.length + 1) 0 (ts.length + 2) last

/-- O43. T_READ: guard, read sequence, busy window, optional fetch, status. T_READ that sees the device busy (R203,
R207, R212). The bus cycles are those `observe` reads from the trace (latch edge: log 11); the R/B# answers are
scripted in the state and DQ answers past the script are free values (log 10). -/
def Obligations.TimedReadMeasuresFetchesAndReadsStatus : Prop :=
  ∀ (a : AddrArray) (n : BitVec 4) (c : Word32) (pre00 fetch : Bool) (ta tc : Word64) (s : State)
    (t0 : Word64) (ts : List Word64) (w : BusyWindow) (l k : Nat) (more : List Level) (later : List Word64), s.Fresh →
    n.toNat ≤ 8 → c.toNat ≤ s.maxBurst → c.toNat + 1 < 2 ^ 32 →
    s.env.rb = readyAfter ts.length ++ (w.rb ++ ((if fetch then readyAfter l else []) ++ (readyAfter k ++ more))) →
    s.env.clk = t0 :: ts ++ (w.clk ++ later) → risingFrom s.clkLast (t0 :: ts ++ w.clk) = true →
    allWithin t0 5000000 ts = true →
    w.within (if ta = 0 then 5000000 else ta) (if tc = 0 then 1000000000 else tc) = true →
    ∃ t, Sys2Proof.Machine.exec (.tRead a n c pre00 fetch ta tc) s = .next t ∧ Ended s t 0 ∧
      t.pins = s.pins ∧
      Shown s t
        (seenBoundedWait t0 ts ++ (if pre00 then seenCmd 0x00 else []) ++ seenCmd 0x00 ++
          seenAddr (a.toList.take n.toNat) ++ seenCmd 0x30 ++ w.seen ++
          (if fetch then seenRead s.timing l (dqAnswers s c.toNat) else []) ++
          seenCmd 0x70 ++ seenDly s.timing .tWHR ++ seenRead s.timing k [(dqAnswers s ((if fetch then c.toNat else 0) + 1)).getLastD 0]) ∧
      Received s t ((dqAnswers s ((if fetch then c.toNat else 0) + 1))) ∧
      t.record = { durationNs := w.stop - w.start, rawStatusByte := (dqAnswers s ((if fetch then c.toNat else 0) + 1)).getLastD 0,
                   readyFlag := ((dqAnswers s ((if fetch then c.toNat else 0) + 1)).getLastD 0).getLsbD 6,
                   passFlag := !((dqAnswers s ((if fetch then c.toNat else 0) + 1)).getLastD 0).getLsbD 0,
                   busyDetected := true, timedOut := w.late.isSome } ∧
      t.fetched = fetch ∧
      Clocked s t (ts.length + 1 + w.rb.length + (if fetch then l + 1 else 0) + (k + 1)) (dqAnswers s ((if fetch then c.toNat else 0) + 1)).length (ts.length + 1 + w.clk.length) w.stop

/-- O44. T_PROGRAM: WP high, guard, program sequence, busy window, status, WP low. T_PROGRAM that sees the device busy
(R204, R207, R211). The bus cycles are those `observe` reads from the trace (latch edge: log 11); the R/B# answers
are scripted in the state and DQ answers past the script are free values (log 10). -/
def Obligations.TimedProgramMeasuresAndReadsStatus : Prop :=
  ∀ (a : AddrArray) (n : BitVec 4) (c : Word32) (confirm : Byte) (ta tc : Word64) (s : State)
    (t0 : Word64) (ts : List Word64) (w : BusyWindow) (k : Nat) (more : List Level) (later : List Word64), s.Fresh →
    n.toNat ≤ 8 → c.toNat ≤ s.maxBurst → (s.mode = .toggle → c.toNat % 2 = 0) →
    s.env.rb = readyAfter ts.length ++ (w.rb ++ (readyAfter k ++ more)) →
    s.env.clk = t0 :: ts ++ (w.clk ++ later) → risingFrom s.clkLast (t0 :: ts ++ w.clk) = true →
    allWithin t0 5000000 ts = true →
    w.within (if ta = 0 then 5000000 else ta) (if tc = 0 then 1000000000 else tc) = true →
    ∃ t, Sys2Proof.Machine.exec (.tProgram a n c confirm ta tc) s = .next t ∧ Ended s t 0 ∧
      t.pins = { s.pins.afterDataIn s.mode with wp := false } ∧
      Shown s t
        ([.wp true] ++ seenBoundedWait t0 ts ++ seenCmd 0x80 ++ seenAddr (a.toList.take n.toNat) ++
          seenDly s.timing .tADL ++ seenData (Memory.take s.opnd.txbuf c.toNat) ++ seenCmd confirm ++ w.seen ++
          seenCmd 0x70 ++ seenDly s.timing .tWHR ++ seenRead s.timing k [(dqAnswers s 1).getLastD 0] ++ [.wp false]) ∧
      Received s t ((dqAnswers s 1)) ∧
      t.record = { durationNs := w.stop - w.start, rawStatusByte := (dqAnswers s 1).getLastD 0,
                   readyFlag := ((dqAnswers s 1).getLastD 0).getLsbD 6,
                   passFlag := !((dqAnswers s 1).getLastD 0).getLsbD 0,
                   busyDetected := true, timedOut := w.late.isSome } ∧
      t.fetched = false ∧
      Clocked s t (ts.length + 1 + w.rb.length + (k + 1)) (dqAnswers s 1).length (ts.length + 1 + w.clk.length) w.stop

/-- O45. T_ERASE: WP high, guard, erase sequence, busy window, status, WP low. T_ERASE that sees the device busy (R205,
R207, R211). The bus cycles are those `observe` reads from the trace (latch edge: log 11); the R/B# answers are
scripted in the state and DQ answers past the script are free values (log 10). -/
def Obligations.TimedEraseMeasuresAndReadsStatus : Prop :=
  ∀ (a : AddrArray) (n : BitVec 4) (ta tc : Word64) (s : State)
    (t0 : Word64) (ts : List Word64) (w : BusyWindow) (k : Nat) (more : List Level) (later : List Word64), s.Fresh →
    n.toNat ≤ 8 →
    s.env.rb = readyAfter ts.length ++ (w.rb ++ (readyAfter k ++ more)) →
    s.env.clk = t0 :: ts ++ (w.clk ++ later) → risingFrom s.clkLast (t0 :: ts ++ w.clk) = true →
    allWithin t0 5000000 ts = true →
    w.within (if ta = 0 then 5000000 else ta) (if tc = 0 then 1000000000 else tc) = true →
    ∃ t, Sys2Proof.Machine.exec (.tErase a n ta tc) s = .next t ∧ Ended s t 0 ∧
      t.pins = { s.pins with wp := false } ∧
      Shown s t
        ([.wp true] ++ seenBoundedWait t0 ts ++ seenCmd 0x60 ++ seenAddr (a.toList.take n.toNat) ++
          seenCmd 0xD0 ++ w.seen ++
          seenCmd 0x70 ++ seenDly s.timing .tWHR ++ seenRead s.timing k [(dqAnswers s 1).getLastD 0] ++ [.wp false]) ∧
      Received s t ((dqAnswers s 1)) ∧
      t.record = { durationNs := w.stop - w.start, rawStatusByte := (dqAnswers s 1).getLastD 0,
                   readyFlag := ((dqAnswers s 1).getLastD 0).getLsbD 6,
                   passFlag := !((dqAnswers s 1).getLastD 0).getLsbD 0,
                   busyDetected := true, timedOut := w.late.isSome } ∧
      t.fetched = false ∧
      Clocked s t (ts.length + 1 + w.rb.length + (k + 1)) (dqAnswers s 1).length (ts.length + 1 + w.clk.length) w.stop

/-- O46. A failed guard wait ends a timed operation with code 2 before any command. The early path (a) of a timed
operation (R202, R206, R232). The R/B# and clock answers are scripted in the state (log 5, log 10). -/
def Obligations.GuardFailureRaisesCodeTwo : Prop :=
  ∀ (i : Instr) (s : State) (t0 last : Word64) (ts : List Word64) (more : List Level) (later : List Word64), s.Fresh →
    i.family = .timed → i.wellFormed s.mode s.maxBurst = true →
    s.env.rb = List.replicate (ts.length + 1) false ++ more → s.env.clk = t0 :: (ts ++ last :: later) →
    risingFrom s.clkLast (t0 :: (ts ++ [last])) = true → allWithin t0 5000000 ts = true →
    5000000 ≤ last.toNat - t0.toNat →
    ∃ t, Sys2Proof.Machine.exec i s = .next t ∧ Ended s t 2 ∧ NoRecord t ∧ NothingReceived s t ∧
      Clocked s t (ts.length + 1) 0 (ts.length + 2) last ∧
      (mayWriteWp i = true → t.pins = { s.pins with wp := false } ∧
        Shown s t ([.wp true, .clk t0] ++ seenRounds false (ts ++ [last]) ++ [.wp false])) ∧
      (mayWriteWp i = false → t.pins = s.pins ∧ Shown s t ([.clk t0] ++ seenRounds false (ts ++ [last])))

/-- O47. A timed operation that never sees busy ends with RES = 0 and a zero record. The early path (b) of a timed
operation (R206). The bus cycles are those `observe` reads from the trace (latch edge: log 11); the R/B# answers are
scripted in the state and DQ answers past the script are free values (log 10). -/
def Obligations.BusyNeverSeenEndsEarly : Prop :=
  ∀ (a : AddrArray) (n : BitVec 4) (c : Word32) (confirm : Byte) (pre00 fetch : Bool) (ta tc : Word64) (s : State)
    (t0 : Word64) (ts : List Word64) (u0 last : Word64) (us : List Word64) (more : List Level) (later : List Word64),
    s.Fresh → n.toNat ≤ 8 →
    s.env.rb = readyAfter ts.length ++ (List.replicate (us.length + 1) true ++ more) →
    s.env.clk = t0 :: ts ++ (u0 :: (us ++ last :: later)) →
    risingFrom s.clkLast (t0 :: ts ++ (u0 :: (us ++ [last]))) = true → allWithin t0 5000000 ts = true →
    allWithin u0 (if ta = 0 then 5000000 else ta) us = true →
    (if ta = 0 then (5000000 : Word64) else ta).toNat ≤ last.toNat - u0.toNat →
    (c.toNat ≤ s.maxBurst →
      ∃ t, Sys2Proof.Machine.exec (.tRead a n c pre00 fetch ta tc) s = .next t ∧ Ended s t 0 ∧ NoRecord t ∧ NothingReceived s t ∧
        t.pins = s.pins ∧
        Shown s t
          (seenBoundedWait t0 ts ++ (if pre00 then seenCmd 0x00 else []) ++ seenCmd 0x00 ++ seenAddr (a.toList.take n.toNat) ++ seenCmd 0x30 ++
            .clk u0 :: seenRounds true (us ++ [last])) ∧
        Clocked s t (ts.length + 1 + (us.length + 1)) 0 (ts.length + 1 + (us.length + 2)) last) ∧
    (c.toNat ≤ s.maxBurst → (s.mode = .toggle → c.toNat % 2 = 0) →
      ∃ t, Sys2Proof.Machine.exec (.tProgram a n c confirm ta tc) s = .next t ∧ Ended s t 0 ∧ NoRecord t ∧ NothingReceived s t ∧
        t.pins = { s.pins.afterDataIn s.mode with wp := false } ∧
        Shown s t
          ([.wp true] ++ seenBoundedWait t0 ts ++ seenCmd 0x80 ++ seenAddr (a.toList.take n.toNat) ++
            seenDly s.timing .tADL ++ seenData (Memory.take s.opnd.txbuf c.toNat) ++ seenCmd confirm ++
            .clk u0 :: seenRounds true (us ++ [last]) ++ [.wp false]) ∧
        Clocked s t (ts.length + 1 + (us.length + 1)) 0 (ts.length + 1 + (us.length + 2)) last) ∧
    (
      ∃ t, Sys2Proof.Machine.exec (.tErase a n ta tc) s = .next t ∧ Ended s t 0 ∧ NoRecord t ∧ NothingReceived s t ∧
        t.pins = { s.pins with wp := false } ∧
        Shown s t
          ([.wp true] ++ seenBoundedWait t0 ts ++ seenCmd 0x60 ++ seenAddr (a.toList.take n.toNat) ++ seenCmd 0xD0 ++
            .clk u0 :: seenRounds true (us ++ [last]) ++ [.wp false]) ∧
        Clocked s t (ts.length + 1 + (us.length + 1)) 0 (ts.length + 1 + (us.length + 2)) last)

/-- O48. Every step keeps the invariant: READY means idle pins, RUNNING means the steps left end idle. The standing
invariant (R31, R33, R129, R220; `State.Sound`), for every IdleOrder that keeps R41 and R79 (log 17). -/
def Obligations.StepKeepsTheStateSound : Prop :=
  ∀ s t : State, s.Sound → Sys2Proof.Machine.step s = .next t → t.Sound

/-- O49. The reset state is sound and has room in RXBUF. -/
def Obligations.ResetStateIsSound : Prop :=
  State.Sound Sys2Proof.Machine.State.reset ∧ State.RxFits Sys2Proof.Machine.State.reset

/-- O50. From a sound state a step never faults and is never refused. R79: no rule samples DQ while they are outputs. -/
def Obligations.SoundStatesAlwaysStep : Prop :=
  ∀ s : State, s.Sound → ∃ t, Sys2Proof.Machine.step s = .next t ∧ t.Sound

/-- O51. RXLEN never exceeds MAX_BURST + 1. R43, R109 (d). The premise on MAX_BURST is the model's (log 6); the spec
leaves the number open. -/
def Obligations.ReceivedBytesFit : Prop :=
  ∀ s t : State, s.RxFits → Sys2Proof.Machine.step s = .next t → t.RxFits

/-- O52. Every event of every step is legal on the bus. R33, R41, R77, R79, R97 at every event of a step, for every
IdleOrder that keeps R41 and R79 (log 17), the listing order among them. -/
def Obligations.StepsDriveTheBusLegally : Prop :=
  ∀ s t : State, s.Sound → s.host.head? ≠ some .blockReset → Sys2Proof.Machine.step s = .next t →
    ∃ es, t.trace = s.trace ++ es ∧ alongTrace legalEvent s.pins es = true ∧ pinsAfter s.pins es = t.pins

/-- O53. Only ENABLE_ERASE, DISABLE_ERASE, T_PROGRAM and T_ERASE write WP. -/
def Obligations.WpWrittenOnlyByFourOperations : Prop :=
  (∀ (i : Instr) (s t : State), s.run = .ready → mayWriteWp i = false → Sys2Proof.Machine.exec i s = .next t →
    t.pins.wp = s.pins.wp ∧ (∃ es, t.trace = s.trace ++ es ∧ ∀ e ∈ es, writesWp e = false) ∧
      (t.run = .running → ∀ m ∈ t.todo, m.leavesWp = true)) ∧
  (∀ s t : State, s.run = .running → (∀ m ∈ s.todo, m.leavesWp = true) → resume s = .next t →
    t.pins.wp = s.pins.wp ∧ (∃ es, t.trace = s.trace ++ es ∧ ∀ e ∈ es, writesWp e = false) ∧
      (t.run = .running → ∀ m ∈ t.todo, m.leavesWp = true))

/-- O54. T_PROGRAM and T_ERASE end with WP low on every path. -/
def Obligations.TimedOperationsLeaveWpLow : Prop :=
  (∀ (i : Instr) (s t : State), s.run = .ready → i.family = .timed → mayWriteWp i = true →
    i.wellFormed s.mode s.maxBurst = true → Sys2Proof.Machine.exec i s = .next t →
    (t.run = .ready → t.pins.wp = false) ∧ (t.run = .running → protectedAtExit t.pins.wp t.todo = true)) ∧
  (∀ s t : State, s.run = .running → protectedAtExit s.pins.wp s.todo = true → resume s = .next t →
    (t.run = .ready → t.pins.wp = false) ∧ (t.run = .running → protectedAtExit t.pins.wp t.todo = true))

/-- O55. The clock reads of a step rise from the last one, and the last one is kept. -/
def Obligations.ClockNeverGoesBack : Prop :=
  ∀ s t : State, Sys2Proof.Machine.step s = .next t →
    ∃ es, t.trace = s.trace ++ es ∧ risingFrom s.clkLast (clockReads es) = true ∧
      t.clkLast = (clockReads es).getLastD s.clkLast

/-- O56. A device that never shows ready leaves the operation RUNNING, with no error. Hangs are not errors (R236). The
R/B# answers are scripted in the state (log 10); how many samples one step takes is the model's (log 1). -/
def Obligations.HangKeepsWaiting : Prop :=
  (∀ (s : State) (k : Nat), s.Fresh → s.env.rb = List.replicate k false →
    (∃ t, Sys2Proof.Machine.exec (.waitReady none) s = .next t ∧ t.run = .running ∧ t.res = 0 ∧ t.pins = s.pins ∧
      t.trace = s.trace ++ List.replicate k (.rb false) ∧ t.env.rb = []) ∧
    (∀ c : Word32, c.toNat ≤ s.maxBurst →
      ∃ t, Sys2Proof.Machine.exec (.readData c) s = .next t ∧ t.run = .running ∧ t.res = 0 ∧
        t.pins = { s.pins with dqDir := .inp } ∧
        t.trace = s.trace ++ .dirDQ .inp :: List.replicate k (.rb false) ∧ t.rxlen = 0 ∧ t.env.rb = [])) ∧
  (∀ (s : State) (rest : List Micro), s.run = .running → s.todo = .pollRb .untilReady :: rest → s.env.rb = [false] →
    resume s = .next { s with
      trace := s.trace ++ [.rb false], env := { s.env with rb := [], rbN := s.env.rbN + 1 } })

/-- O57. Through the pin map, driving a byte sets exactly its lines and sampling gathers it back. -/
def Obligations.DrivingAByteSetsItsLines : Prop :=
  ∀ (pm : PinMap) (b : Byte) (w : Word32), pm.valid = true →
    setMask pm b &&& clearMask pm b = 0 ∧ setMask pm b ||| clearMask pm b = dqPinMask pm ∧
    gather pm (((Event.dqClr (~~~b)).accesses pm).foldl GpioAccess.onLatch w) = gather pm w &&& b ∧
    gather pm (((Event.dqClr (~~~b)).accesses pm ++ (Event.dqSet b).accesses pm).foldl GpioAccess.onLatch w) = b ∧
    ((Event.dqClr (~~~b)).accesses pm ++ (Event.dqSet b).accesses pm).foldl GpioAccess.onLatch w &&& ~~~dqPinMask pm =
      w &&& ~~~dqPinMask pm

/-- O58. The host's row address mapping is undone by its reverse. -/
def Obligations.RowAddressRoundTrip : Prop :=
  ∀ ppb block page cc rc col : Nat, page < ppb → block * ppb + page < 2 ^ (8 * rc) →
    (pageTuple cc rc col (rowAddress ppb block page)).length = cc + rc ∧
    (∀ i < rc, (pageTuple cc rc col (rowAddress ppb block page))[cc + i]? =
      some (BitVec.ofNat 8 ((block * ppb + page) >>> (8 * i)))) ∧
    (∀ j < cc, (pageTuple cc rc 0 (rowAddress ppb block page))[j]? = some 0x00) ∧
    eraseTuple rc (rowAddress ppb block page) = (pageTuple cc rc col (rowAddress ppb block page)).drop cc ∧
    blockPageOfRow ppb (rowOfTuple cc (pageTuple cc rc col (rowAddress ppb block page))) = (block, page)

/-- O59. The succeeded predicate, and that MEASURE_BUSY alone never meets it. -/
def Obligations.SucceededPredicate : Prop :=
  (∀ r : TimingRecord, r.succeeded = true ↔
    r.busyDetected = true ∧ r.readyFlag = true ∧ r.passFlag = true ∧ r.timedOut = false) ∧
  (∀ (ta tc : Word64) (s t : State), s.run = .ready → Sys2Proof.Machine.exec (.measureBusy ta tc) s = .next t →
    t.record.succeeded = false ∧ t.record.readyFlag = false ∧ t.record.passFlag = false ∧
      Micro.decodeStatus ∉ t.todo) ∧
  (∀ s t : State, s.run = .running → s.record.readyFlag = false → s.record.passFlag = false →
    Micro.decodeStatus ∉ s.todo → resume s = .next t →
    t.record.succeeded = false ∧ t.record.readyFlag = false ∧ t.record.passFlag = false ∧ Micro.decodeStatus ∉ t.todo)

/-- O60. Which result code which operation can end with. -/
def Obligations.ResultCodesByOperation : Prop :=
  (∀ (i : Instr) (s t : State), s.run = .ready → Sys2Proof.Machine.exec i s = .next t →
    (t.run = .ready → t.res = 5 ∨ t.res = 0 ∨ (t.res = 2 ∧ i.family = .timed) ∨
      (t.res = 7 ∧ ∃ limit, i = .waitReady (some limit))) ∧
    (t.run = .running → t.res = 0 ∧ ∀ code ∈ endCodes t.todo, code = 0 ∨ (code = 2 ∧ i.family = .timed) ∨
      (code = 7 ∧ ∃ limit, i = .waitReady (some limit)))) ∧
  (∀ s t : State, s.run = .running → resume s = .next t →
    (t.run = .ready → t.res ∈ endCodes s.todo) ∧
    (t.run = .running → t.res = s.res ∧ ∀ code ∈ endCodes t.todo, code ∈ endCodes s.todo))
end

