-- ==== Sys2Proof/Laws/State.lean ====
section
/-! SUPPORT. One lemma per field for each update of the state (by `rfl`), so that no proof unfolds a record update. -/

namespace Sys2Proof.Machine

/-! ### `State.emit` -/

@[simp] theorem State.emit_run (e : Event) (s : State) : (s.emit e).run = s.run := rfl
@[simp] theorem State.emit_seq (e : Event) (s : State) : (s.emit e).seq = s.seq + 1 := rfl
@[simp] theorem State.emit_idx (e : Event) (s : State) : (s.emit e).idx = s.idx := rfl
@[simp] theorem State.emit_todo (e : Event) (s : State) : (s.emit e).todo = s.todo := rfl
@[simp] theorem State.emit_tStart (e : Event) (s : State) : (s.emit e).tStart = s.tStart := rfl
@[simp] theorem State.emit_busyStart (e : Event) (s : State) : (s.emit e).busyStart = s.busyStart := rfl
@[simp] theorem State.emit_pins (e : Event) (s : State) : (s.emit e).pins = e.onPins s.pins := rfl
@[simp] theorem State.emit_opnd (e : Event) (s : State) : (s.emit e).opnd = s.opnd := rfl
@[simp] theorem State.emit_res (e : Event) (s : State) : (s.emit e).res = s.res := rfl
@[simp] theorem State.emit_rxlen (e : Event) (s : State) : (s.emit e).rxlen = s.rxlen := rfl
@[simp] theorem State.emit_rxbuf (e : Event) (s : State) : (s.emit e).rxbuf = s.rxbuf := rfl
@[simp] theorem State.emit_record (e : Event) (s : State) : (s.emit e).record = s.record := rfl
@[simp] theorem State.emit_fetched (e : Event) (s : State) : (s.emit e).fetched = s.fetched := rfl
@[simp] theorem State.emit_mode (e : Event) (s : State) : (s.emit e).mode = s.mode := rfl
@[simp] theorem State.emit_timing (e : Event) (s : State) : (s.emit e).timing = s.timing := rfl
@[simp] theorem State.emit_maxBurst (e : Event) (s : State) : (s.emit e).maxBurst = s.maxBurst := rfl
@[simp] theorem State.emit_idleOrder (e : Event) (s : State) : (s.emit e).idleOrder = s.idleOrder := rfl
@[simp] theorem State.emit_slice (e : Event) (s : State) : (s.emit e).slice = s.slice := rfl
@[simp] theorem State.emit_clkLast (e : Event) (s : State) : (s.emit e).clkLast = s.clkLast := rfl
@[simp] theorem State.emit_trace (e : Event) (s : State) : (s.emit e).trace = s.trace ++ [e] := rfl
@[simp] theorem State.emit_env (e : Event) (s : State) : (s.emit e).env = s.env := rfl
@[simp] theorem State.emit_host (e : Event) (s : State) : (s.emit e).host = s.host := rfl

/-! ### `State.sampleRb` -/

@[simp] theorem State.sampleRb_run (s : State) : s.sampleRb.run = s.run := rfl
@[simp] theorem State.sampleRb_seq (s : State) : s.sampleRb.seq = s.seq + 1 := rfl
@[simp] theorem State.sampleRb_idx (s : State) : s.sampleRb.idx = s.idx := rfl
@[simp] theorem State.sampleRb_todo (s : State) : s.sampleRb.todo = s.todo := rfl
@[simp] theorem State.sampleRb_tStart (s : State) : s.sampleRb.tStart = s.tStart := rfl
@[simp] theorem State.sampleRb_busyStart (s : State) : s.sampleRb.busyStart = s.busyStart := rfl
@[simp] theorem State.sampleRb_pins (s : State) : s.sampleRb.pins = s.pins := rfl
@[simp] theorem State.sampleRb_opnd (s : State) : s.sampleRb.opnd = s.opnd := rfl
@[simp] theorem State.sampleRb_res (s : State) : s.sampleRb.res = s.res := rfl
@[simp] theorem State.sampleRb_rxlen (s : State) : s.sampleRb.rxlen = s.rxlen := rfl
@[simp] theorem State.sampleRb_rxbuf (s : State) : s.sampleRb.rxbuf = s.rxbuf := rfl
@[simp] theorem State.sampleRb_record (s : State) : s.sampleRb.record = s.record := rfl
@[simp] theorem State.sampleRb_fetched (s : State) : s.sampleRb.fetched = s.fetched := rfl
@[simp] theorem State.sampleRb_mode (s : State) : s.sampleRb.mode = s.mode := rfl
@[simp] theorem State.sampleRb_timing (s : State) : s.sampleRb.timing = s.timing := rfl
@[simp] theorem State.sampleRb_maxBurst (s : State) : s.sampleRb.maxBurst = s.maxBurst := rfl
@[simp] theorem State.sampleRb_idleOrder (s : State) : s.sampleRb.idleOrder = s.idleOrder := rfl
@[simp] theorem State.sampleRb_slice (s : State) : s.sampleRb.slice = s.slice := rfl
@[simp] theorem State.sampleRb_clkLast (s : State) : s.sampleRb.clkLast = s.clkLast := rfl
@[simp] theorem State.sampleRb_trace (s : State) : s.sampleRb.trace = s.trace ++ [.rb s.nextRb] := rfl
@[simp] theorem State.sampleRb_env (s : State) : s.sampleRb.env = { s.env with rb := s.env.rb.tail, rbN := s.env.rbN + 1 } := rfl
@[simp] theorem State.sampleRb_host (s : State) : s.sampleRb.host = s.host := rfl

/-! ### `State.readClk` -/

@[simp] theorem State.readClk_run (s : State) : s.readClk.run = s.run := rfl
@[simp] theorem State.readClk_seq (s : State) : s.readClk.seq = s.seq + 1 := rfl
@[simp] theorem State.readClk_idx (s : State) : s.readClk.idx = s.idx := rfl
@[simp] theorem State.readClk_todo (s : State) : s.readClk.todo = s.todo := rfl
@[simp] theorem State.readClk_tStart (s : State) : s.readClk.tStart = s.tStart := rfl
@[simp] theorem State.readClk_busyStart (s : State) : s.readClk.busyStart = s.busyStart := rfl
@[simp] theorem State.readClk_pins (s : State) : s.readClk.pins = s.pins := rfl
@[simp] theorem State.readClk_opnd (s : State) : s.readClk.opnd = s.opnd := rfl
@[simp] theorem State.readClk_res (s : State) : s.readClk.res = s.res := rfl
@[simp] theorem State.readClk_rxlen (s : State) : s.readClk.rxlen = s.rxlen := rfl
@[simp] theorem State.readClk_rxbuf (s : State) : s.readClk.rxbuf = s.rxbuf := rfl
@[simp] theorem State.readClk_record (s : State) : s.readClk.record = s.record := rfl
@[simp] theorem State.readClk_fetched (s : State) : s.readClk.fetched = s.fetched := rfl
@[simp] theorem State.readClk_mode (s : State) : s.readClk.mode = s.mode := rfl
@[simp] theorem State.readClk_timing (s : State) : s.readClk.timing = s.timing := rfl
@[simp] theorem State.readClk_maxBurst (s : State) : s.readClk.maxBurst = s.maxBurst := rfl
@[simp] theorem State.readClk_idleOrder (s : State) : s.readClk.idleOrder = s.idleOrder := rfl
@[simp] theorem State.readClk_slice (s : State) : s.readClk.slice = s.slice := rfl
@[simp] theorem State.readClk_clkLast (s : State) : s.readClk.clkLast = s.nextClk := rfl
@[simp] theorem State.readClk_trace (s : State) : s.readClk.trace = s.trace ++ [.clk s.nextClk] := rfl
@[simp] theorem State.readClk_env (s : State) : s.readClk.env = { s.env with clk := s.env.clk.tail, clkN := s.env.clkN + 1 } := rfl
@[simp] theorem State.readClk_host (s : State) : s.readClk.host = s.host := rfl

/-! ### `State.sampleDq` -/

@[simp] theorem State.sampleDq_run (s : State) : s.sampleDq.run = s.run := rfl
@[simp] theorem State.sampleDq_seq (s : State) : s.sampleDq.seq = s.seq + 1 := rfl
@[simp] theorem State.sampleDq_idx (s : State) : s.sampleDq.idx = s.idx := rfl
@[simp] theorem State.sampleDq_todo (s : State) : s.sampleDq.todo = s.todo := rfl
@[simp] theorem State.sampleDq_tStart (s : State) : s.sampleDq.tStart = s.tStart := rfl
@[simp] theorem State.sampleDq_busyStart (s : State) : s.sampleDq.busyStart = s.busyStart := rfl
@[simp] theorem State.sampleDq_pins (s : State) : s.sampleDq.pins = s.pins := rfl
@[simp] theorem State.sampleDq_opnd (s : State) : s.sampleDq.opnd = s.opnd := rfl
@[simp] theorem State.sampleDq_res (s : State) : s.sampleDq.res = s.res := rfl
@[simp] theorem State.sampleDq_rxlen (s : State) : s.sampleDq.rxlen = s.rxlen + 1 := rfl
@[simp] theorem State.sampleDq_rxbuf (s : State) : s.sampleDq.rxbuf = Memory.write s.rxbuf s.rxlen.toNat s.nextDq := rfl
@[simp] theorem State.sampleDq_record (s : State) : s.sampleDq.record = s.record := rfl
@[simp] theorem State.sampleDq_fetched (s : State) : s.sampleDq.fetched = s.fetched := rfl
@[simp] theorem State.sampleDq_mode (s : State) : s.sampleDq.mode = s.mode := rfl
@[simp] theorem State.sampleDq_timing (s : State) : s.sampleDq.timing = s.timing := rfl
@[simp] theorem State.sampleDq_maxBurst (s : State) : s.sampleDq.maxBurst = s.maxBurst := rfl
@[simp] theorem State.sampleDq_idleOrder (s : State) : s.sampleDq.idleOrder = s.idleOrder := rfl
@[simp] theorem State.sampleDq_slice (s : State) : s.sampleDq.slice = s.slice := rfl
@[simp] theorem State.sampleDq_clkLast (s : State) : s.sampleDq.clkLast = s.clkLast := rfl
@[simp] theorem State.sampleDq_trace (s : State) : s.sampleDq.trace = s.trace ++ [.dq s.nextDq] := rfl
@[simp] theorem State.sampleDq_env (s : State) : s.sampleDq.env = { s.env with dq := s.env.dq.tail, dqN := s.env.dqN + 1 } := rfl
@[simp] theorem State.sampleDq_host (s : State) : s.sampleDq.host = s.host := rfl

/-! ### `State.complete` -/

@[simp] theorem State.complete_run (code : Byte) (s : State) : (s.complete code).run = RunState.ready := rfl
@[simp] theorem State.complete_seq (code : Byte) (s : State) : (s.complete code).seq = s.seq := rfl
@[simp] theorem State.complete_idx (code : Byte) (s : State) : (s.complete code).idx = s.idx := rfl
@[simp] theorem State.complete_todo (code : Byte) (s : State) : (s.complete code).todo = [] := rfl
@[simp] theorem State.complete_tStart (code : Byte) (s : State) : (s.complete code).tStart = s.tStart := rfl
@[simp] theorem State.complete_busyStart (code : Byte) (s : State) : (s.complete code).busyStart = s.busyStart := rfl
@[simp] theorem State.complete_pins (code : Byte) (s : State) : (s.complete code).pins = s.pins := rfl
@[simp] theorem State.complete_opnd (code : Byte) (s : State) : (s.complete code).opnd = s.opnd := rfl
@[simp] theorem State.complete_res (code : Byte) (s : State) : (s.complete code).res = code := rfl
@[simp] theorem State.complete_rxlen (code : Byte) (s : State) : (s.complete code).rxlen = s.rxlen := rfl
@[simp] theorem State.complete_rxbuf (code : Byte) (s : State) : (s.complete code).rxbuf = s.rxbuf := rfl
@[simp] theorem State.complete_record (code : Byte) (s : State) : (s.complete code).record = s.record := rfl
@[simp] theorem State.complete_fetched (code : Byte) (s : State) : (s.complete code).fetched = s.fetched := rfl
@[simp] theorem State.complete_mode (code : Byte) (s : State) : (s.complete code).mode = s.mode := rfl
@[simp] theorem State.complete_timing (code : Byte) (s : State) : (s.complete code).timing = s.timing := rfl
@[simp] theorem State.complete_maxBurst (code : Byte) (s : State) : (s.complete code).maxBurst = s.maxBurst := rfl
@[simp] theorem State.complete_idleOrder (code : Byte) (s : State) : (s.complete code).idleOrder = s.idleOrder := rfl
@[simp] theorem State.complete_slice (code : Byte) (s : State) : (s.complete code).slice = s.slice := rfl
@[simp] theorem State.complete_clkLast (code : Byte) (s : State) : (s.complete code).clkLast = s.clkLast := rfl
@[simp] theorem State.complete_trace (code : Byte) (s : State) : (s.complete code).trace = s.trace := rfl
@[simp] theorem State.complete_env (code : Byte) (s : State) : (s.complete code).env = s.env := rfl
@[simp] theorem State.complete_host (code : Byte) (s : State) : (s.complete code).host = s.host := rfl

/-! ### `State.leaveEarly` -/

@[simp] theorem State.leaveEarly_run (raisedWp : Bool) (code : Byte) (s : State) : (s.leaveEarly raisedWp code).run = s.run := rfl
@[simp] theorem State.leaveEarly_seq (raisedWp : Bool) (code : Byte) (s : State) : (s.leaveEarly raisedWp code).seq = s.seq := rfl
@[simp] theorem State.leaveEarly_idx (raisedWp : Bool) (code : Byte) (s : State) : (s.leaveEarly raisedWp code).idx = s.idx := rfl
@[simp] theorem State.leaveEarly_todo (raisedWp : Bool) (code : Byte) (s : State) : (s.leaveEarly raisedWp code).todo = lowerWp raisedWp ++ [.done code] := rfl
@[simp] theorem State.leaveEarly_tStart (raisedWp : Bool) (code : Byte) (s : State) : (s.leaveEarly raisedWp code).tStart = s.tStart := rfl
@[simp] theorem State.leaveEarly_busyStart (raisedWp : Bool) (code : Byte) (s : State) : (s.leaveEarly raisedWp code).busyStart = s.busyStart := rfl
@[simp] theorem State.leaveEarly_pins (raisedWp : Bool) (code : Byte) (s : State) : (s.leaveEarly raisedWp code).pins = s.pins := rfl
@[simp] theorem State.leaveEarly_opnd (raisedWp : Bool) (code : Byte) (s : State) : (s.leaveEarly raisedWp code).opnd = s.opnd := rfl
@[simp] theorem State.leaveEarly_res (raisedWp : Bool) (code : Byte) (s : State) : (s.leaveEarly raisedWp code).res = s.res := rfl
@[simp] theorem State.leaveEarly_rxlen (raisedWp : Bool) (code : Byte) (s : State) : (s.leaveEarly raisedWp code).rxlen = s.rxlen := rfl
@[simp] theorem State.leaveEarly_rxbuf (raisedWp : Bool) (code : Byte) (s : State) : (s.leaveEarly raisedWp code).rxbuf = s.rxbuf := rfl
@[simp] theorem State.leaveEarly_record (raisedWp : Bool) (code : Byte) (s : State) : (s.leaveEarly raisedWp code).record = s.record := rfl
@[simp] theorem State.leaveEarly_fetched (raisedWp : Bool) (code : Byte) (s : State) : (s.leaveEarly raisedWp code).fetched = s.fetched := rfl
@[simp] theorem State.leaveEarly_mode (raisedWp : Bool) (code : Byte) (s : State) : (s.leaveEarly raisedWp code).mode = s.mode := rfl
@[simp] theorem State.leaveEarly_timing (raisedWp : Bool) (code : Byte) (s : State) : (s.leaveEarly raisedWp code).timing = s.timing := rfl
@[simp] theorem State.leaveEarly_maxBurst (raisedWp : Bool) (code : Byte) (s : State) : (s.leaveEarly raisedWp code).maxBurst = s.maxBurst := rfl
@[simp] theorem State.leaveEarly_idleOrder (raisedWp : Bool) (code : Byte) (s : State) : (s.leaveEarly raisedWp code).idleOrder = s.idleOrder := rfl
@[simp] theorem State.leaveEarly_slice (raisedWp : Bool) (code : Byte) (s : State) : (s.leaveEarly raisedWp code).slice = s.slice := rfl
@[simp] theorem State.leaveEarly_clkLast (raisedWp : Bool) (code : Byte) (s : State) : (s.leaveEarly raisedWp code).clkLast = s.clkLast := rfl
@[simp] theorem State.leaveEarly_trace (raisedWp : Bool) (code : Byte) (s : State) : (s.leaveEarly raisedWp code).trace = s.trace := rfl
@[simp] theorem State.leaveEarly_env (raisedWp : Bool) (code : Byte) (s : State) : (s.leaveEarly raisedWp code).env = s.env := rfl
@[simp] theorem State.leaveEarly_host (raisedWp : Bool) (code : Byte) (s : State) : (s.leaveEarly raisedWp code).host = s.host := rfl

/-! ### `State.refuse` -/

@[simp] theorem State.refuse_run (s : State) : s.refuse.run = s.run := rfl
@[simp] theorem State.refuse_seq (s : State) : s.refuse.seq = s.seq := rfl
@[simp] theorem State.refuse_idx (s : State) : s.refuse.idx = s.idx := rfl
@[simp] theorem State.refuse_todo (s : State) : s.refuse.todo = s.todo := rfl
@[simp] theorem State.refuse_tStart (s : State) : s.refuse.tStart = s.tStart := rfl
@[simp] theorem State.refuse_busyStart (s : State) : s.refuse.busyStart = s.busyStart := rfl
@[simp] theorem State.refuse_pins (s : State) : s.refuse.pins = s.pins := rfl
@[simp] theorem State.refuse_opnd (s : State) : s.refuse.opnd = s.opnd := rfl
@[simp] theorem State.refuse_res (s : State) : s.refuse.res = resOutOfRange := rfl
@[simp] theorem State.refuse_rxlen (s : State) : s.refuse.rxlen = s.rxlen := rfl
@[simp] theorem State.refuse_rxbuf (s : State) : s.refuse.rxbuf = s.rxbuf := rfl
@[simp] theorem State.refuse_record (s : State) : s.refuse.record = s.record := rfl
@[simp] theorem State.refuse_fetched (s : State) : s.refuse.fetched = s.fetched := rfl
@[simp] theorem State.refuse_mode (s : State) : s.refuse.mode = s.mode := rfl
@[simp] theorem State.refuse_timing (s : State) : s.refuse.timing = s.timing := rfl
@[simp] theorem State.refuse_maxBurst (s : State) : s.refuse.maxBurst = s.maxBurst := rfl
@[simp] theorem State.refuse_idleOrder (s : State) : s.refuse.idleOrder = s.idleOrder := rfl
@[simp] theorem State.refuse_slice (s : State) : s.refuse.slice = s.slice := rfl
@[simp] theorem State.refuse_clkLast (s : State) : s.refuse.clkLast = s.clkLast := rfl
@[simp] theorem State.refuse_trace (s : State) : s.refuse.trace = s.trace := rfl
@[simp] theorem State.refuse_env (s : State) : s.refuse.env = s.env := rfl
@[simp] theorem State.refuse_host (s : State) : s.refuse.host = s.host := rfl

/-! ### `State.accept` -/

@[simp] theorem State.accept_run (steps : List Micro) (s : State) : (s.accept steps).run = RunState.running := rfl
@[simp] theorem State.accept_seq (steps : List Micro) (s : State) : (s.accept steps).seq = 0 := rfl
@[simp] theorem State.accept_idx (steps : List Micro) (s : State) : (s.accept steps).idx = 0 := rfl
@[simp] theorem State.accept_todo (steps : List Micro) (s : State) : (s.accept steps).todo = steps := rfl
@[simp] theorem State.accept_tStart (steps : List Micro) (s : State) : (s.accept steps).tStart = s.tStart := rfl
@[simp] theorem State.accept_busyStart (steps : List Micro) (s : State) : (s.accept steps).busyStart = s.busyStart := rfl
@[simp] theorem State.accept_pins (steps : List Micro) (s : State) : (s.accept steps).pins = s.pins := rfl
@[simp] theorem State.accept_opnd (steps : List Micro) (s : State) : (s.accept steps).opnd = s.opnd := rfl
@[simp] theorem State.accept_res (steps : List Micro) (s : State) : (s.accept steps).res = resOk := rfl
@[simp] theorem State.accept_rxlen (steps : List Micro) (s : State) : (s.accept steps).rxlen = 0 := rfl
@[simp] theorem State.accept_rxbuf (steps : List Micro) (s : State) : (s.accept steps).rxbuf = s.rxbuf := rfl
@[simp] theorem State.accept_record (steps : List Micro) (s : State) : (s.accept steps).record = TimingRecord.zero := rfl
@[simp] theorem State.accept_fetched (steps : List Micro) (s : State) : (s.accept steps).fetched = false := rfl
@[simp] theorem State.accept_mode (steps : List Micro) (s : State) : (s.accept steps).mode = s.mode := rfl
@[simp] theorem State.accept_timing (steps : List Micro) (s : State) : (s.accept steps).timing = s.timing := rfl
@[simp] theorem State.accept_maxBurst (steps : List Micro) (s : State) : (s.accept steps).maxBurst = s.maxBurst := rfl
@[simp] theorem State.accept_idleOrder (steps : List Micro) (s : State) : (s.accept steps).idleOrder = s.idleOrder := rfl
@[simp] theorem State.accept_slice (steps : List Micro) (s : State) : (s.accept steps).slice = s.slice := rfl
@[simp] theorem State.accept_clkLast (steps : List Micro) (s : State) : (s.accept steps).clkLast = s.clkLast := rfl
@[simp] theorem State.accept_trace (steps : List Micro) (s : State) : (s.accept steps).trace = s.trace := rfl
@[simp] theorem State.accept_env (steps : List Micro) (s : State) : (s.accept steps).env = s.env := rfl
@[simp] theorem State.accept_host (steps : List Micro) (s : State) : (s.accept steps).host = s.host := rfl

/-! ### `State.present` -/

@[simp] theorem State.present_run (r : Request) (s : State) : (s.present r).run = s.run := rfl
@[simp] theorem State.present_seq (r : Request) (s : State) : (s.present r).seq = s.seq := rfl
@[simp] theorem State.present_idx (r : Request) (s : State) : (s.present r).idx = s.idx := rfl
@[simp] theorem State.present_todo (r : Request) (s : State) : (s.present r).todo = s.todo := rfl
@[simp] theorem State.present_tStart (r : Request) (s : State) : (s.present r).tStart = s.tStart := rfl
@[simp] theorem State.present_busyStart (r : Request) (s : State) : (s.present r).busyStart = s.busyStart := rfl
@[simp] theorem State.present_pins (r : Request) (s : State) : (s.present r).pins = s.pins := rfl
@[simp] theorem State.present_opnd (r : Request) (s : State) : (s.present r).opnd = r := rfl
@[simp] theorem State.present_res (r : Request) (s : State) : (s.present r).res = s.res := rfl
@[simp] theorem State.present_rxlen (r : Request) (s : State) : (s.present r).rxlen = s.rxlen := rfl
@[simp] theorem State.present_rxbuf (r : Request) (s : State) : (s.present r).rxbuf = s.rxbuf := rfl
@[simp] theorem State.present_record (r : Request) (s : State) : (s.present r).record = s.record := rfl
@[simp] theorem State.present_fetched (r : Request) (s : State) : (s.present r).fetched = s.fetched := rfl
@[simp] theorem State.present_mode (r : Request) (s : State) : (s.present r).mode = s.mode := rfl
@[simp] theorem State.present_timing (r : Request) (s : State) : (s.present r).timing = s.timing := rfl
@[simp] theorem State.present_maxBurst (r : Request) (s : State) : (s.present r).maxBurst = s.maxBurst := rfl
@[simp] theorem State.present_idleOrder (r : Request) (s : State) : (s.present r).idleOrder = s.idleOrder := rfl
@[simp] theorem State.present_slice (r : Request) (s : State) : (s.present r).slice = s.slice := rfl
@[simp] theorem State.present_clkLast (r : Request) (s : State) : (s.present r).clkLast = s.clkLast := rfl
@[simp] theorem State.present_trace (r : Request) (s : State) : (s.present r).trace = s.trace := rfl
@[simp] theorem State.present_env (r : Request) (s : State) : (s.present r).env = s.env := rfl
@[simp] theorem State.present_host (r : Request) (s : State) : (s.present r).host = s.host := rfl

/-! ### `State.withRequest` -/

@[simp] theorem State.withRequest_run (r : Request) (s : State) : (s.withRequest r).run = RunState.ready := rfl
@[simp] theorem State.withRequest_seq (r : Request) (s : State) : (s.withRequest r).seq = s.seq := rfl
@[simp] theorem State.withRequest_idx (r : Request) (s : State) : (s.withRequest r).idx = s.idx := rfl
@[simp] theorem State.withRequest_todo (r : Request) (s : State) : (s.withRequest r).todo = [] := rfl
@[simp] theorem State.withRequest_tStart (r : Request) (s : State) : (s.withRequest r).tStart = s.tStart := rfl
@[simp] theorem State.withRequest_busyStart (r : Request) (s : State) : (s.withRequest r).busyStart = s.busyStart := rfl
@[simp] theorem State.withRequest_pins (r : Request) (s : State) : (s.withRequest r).pins = s.pins := rfl
@[simp] theorem State.withRequest_opnd (r : Request) (s : State) : (s.withRequest r).opnd = s.opnd := rfl
@[simp] theorem State.withRequest_res (r : Request) (s : State) : (s.withRequest r).res = s.res := rfl
@[simp] theorem State.withRequest_rxlen (r : Request) (s : State) : (s.withRequest r).rxlen = s.rxlen := rfl
@[simp] theorem State.withRequest_rxbuf (r : Request) (s : State) : (s.withRequest r).rxbuf = s.rxbuf := rfl
@[simp] theorem State.withRequest_record (r : Request) (s : State) : (s.withRequest r).record = s.record := rfl
@[simp] theorem State.withRequest_fetched (r : Request) (s : State) : (s.withRequest r).fetched = s.fetched := rfl
@[simp] theorem State.withRequest_mode (r : Request) (s : State) : (s.withRequest r).mode = s.mode := rfl
@[simp] theorem State.withRequest_timing (r : Request) (s : State) : (s.withRequest r).timing = s.timing := rfl
@[simp] theorem State.withRequest_maxBurst (r : Request) (s : State) : (s.withRequest r).maxBurst = s.maxBurst := rfl
@[simp] theorem State.withRequest_idleOrder (r : Request) (s : State) : (s.withRequest r).idleOrder = s.idleOrder := rfl
@[simp] theorem State.withRequest_slice (r : Request) (s : State) : (s.withRequest r).slice = s.slice := rfl
@[simp] theorem State.withRequest_clkLast (r : Request) (s : State) : (s.withRequest r).clkLast = s.clkLast := rfl
@[simp] theorem State.withRequest_trace (r : Request) (s : State) : (s.withRequest r).trace = s.trace := rfl
@[simp] theorem State.withRequest_env (r : Request) (s : State) : (s.withRequest r).env = s.env := rfl
@[simp] theorem State.withRequest_host (r : Request) (s : State) : (s.withRequest r).host = .request r :: s.host := rfl

/-! ### `State.blockReset` -/

@[simp] theorem State.blockReset_run (s : State) : s.blockReset.run = RunState.ready := rfl
@[simp] theorem State.blockReset_seq (s : State) : s.blockReset.seq = 0 := rfl
@[simp] theorem State.blockReset_idx (s : State) : s.blockReset.idx = 0 := rfl
@[simp] theorem State.blockReset_todo (s : State) : s.blockReset.todo = [] := rfl
@[simp] theorem State.blockReset_tStart (s : State) : s.blockReset.tStart = 0 := rfl
@[simp] theorem State.blockReset_busyStart (s : State) : s.blockReset.busyStart = 0 := rfl
@[simp] theorem State.blockReset_pins (s : State) : s.blockReset.pins = Pins.reset := rfl
@[simp] theorem State.blockReset_opnd (s : State) : s.blockReset.opnd = { Request.zero with txbuf := s.opnd.txbuf } := rfl
@[simp] theorem State.blockReset_res (s : State) : s.blockReset.res = 0 := rfl
@[simp] theorem State.blockReset_rxlen (s : State) : s.blockReset.rxlen = 0 := rfl
@[simp] theorem State.blockReset_rxbuf (s : State) : s.blockReset.rxbuf = [] := rfl
@[simp] theorem State.blockReset_record (s : State) : s.blockReset.record = TimingRecord.zero := rfl
@[simp] theorem State.blockReset_fetched (s : State) : s.blockReset.fetched = false := rfl
@[simp] theorem State.blockReset_mode (s : State) : s.blockReset.mode = Mode.async := rfl
@[simp] theorem State.blockReset_timing (s : State) : s.blockReset.timing = s.timing := rfl
@[simp] theorem State.blockReset_maxBurst (s : State) : s.blockReset.maxBurst = s.maxBurst := rfl
@[simp] theorem State.blockReset_idleOrder (s : State) : s.blockReset.idleOrder = s.idleOrder := rfl
@[simp] theorem State.blockReset_slice (s : State) : s.blockReset.slice = s.slice := rfl
@[simp] theorem State.blockReset_clkLast (s : State) : s.blockReset.clkLast = s.clkLast := rfl
@[simp] theorem State.blockReset_trace (s : State) : s.blockReset.trace = s.trace := rfl
@[simp] theorem State.blockReset_env (s : State) : s.blockReset.env = s.env := rfl
@[simp] theorem State.blockReset_host (s : State) : s.blockReset.host = s.host := rfl

end Sys2Proof.Machine
end

