-- ==== Sys2Proof/Laws/Engine.lean ====
section
/-! SUPPORT. The engine: what one step does to each kind of entry, runs of steps, that a settling run settles, and what a
request does. A statement about an operation cites these and unfolds no definition of Machine/Ops.lean. -/

namespace Sys2Proof.Machine

/-! ## One step -/

/-- An entry with an event of its own performs exactly that event. -/
theorem engineStep_event {s : State} {m : Micro} {rest : List Micro} {e : Event} (ht : s.todo = m :: rest)
    (he : m.event s.opnd.txbuf s.pins = some e) : engineStep s = .next (({ s with todo := rest }).emit e) := by
  simp [engineStep, ht, perform, he]

theorem engineStep_nil {s : State} (ht : s.todo = []) : engineStep s = .next (s.complete resOk) := by
  simp [engineStep, ht]

theorem engineStep_done {s : State} {code : Byte} {rest : List Micro} (ht : s.todo = .done code :: rest) :
    engineStep s = .next (({ s with todo := rest }).complete code) := by
  simp [engineStep, ht, perform, Micro.event]

theorem engineStep_sampleDQ {s : State} {rest : List Micro} (ht : s.todo = .sampleDQ :: rest)
    (hd : s.pins.dqDir = .inp) : engineStep s = .next ({ s with todo := rest }).sampleDq := by
  simp [engineStep, ht, perform, Micro.event, hd]

/-- The only fault of the block. -/
theorem engineStep_sampleDQ_fault {s : State} {rest : List Micro} (ht : s.todo = .sampleDQ :: rest)
    (hd : s.pins.dqDir = .out) : engineStep s = .fault .dqSampledWhileDriving := by
  simp [engineStep, ht, perform, Micro.event, hd]

theorem engineStep_clkStart {s : State} {rest : List Micro} (ht : s.todo = .clkStart :: rest) :
    engineStep s = .next { ({ s with todo := rest }).readClk with tStart := s.nextClk } := by
  simp only [engineStep, ht, perform, Micro.event]; rfl

theorem engineStep_clkBusyStart {s : State} {rest : List Micro} (ht : s.todo = .clkBusyStart :: rest) :
    engineStep s = .next { ({ s with todo := rest }).readClk with busyStart := s.nextClk } := by
  simp only [engineStep, ht, perform, Micro.event]; rfl

theorem engineStep_clkBusyEnd {s : State} {rest : List Micro} (ht : s.todo = .clkBusyEnd :: rest) :
    engineStep s = .next { ({ s with todo := rest }).readClk with
      record := { s.record with durationNs := s.nextClk - s.busyStart } } := by
  simp only [engineStep, ht, perform, Micro.event]; rfl

theorem engineStep_setIdx {s : State} {k : Nat} {rest : List Micro} (ht : s.todo = .setIdx k :: rest) :
    engineStep s = .next { s with todo := rest, idx := k } := by
  simp [engineStep, ht, perform, Micro.event]

theorem engineStep_busySeen {s : State} {rest : List Micro} (ht : s.todo = .busySeen :: rest) :
    engineStep s = .next { s with todo := rest, record := { s.record with busyDetected := true } } := by
  simp [engineStep, ht, perform, Micro.event]

theorem engineStep_setFetched {s : State} {rest : List Micro} (ht : s.todo = .setFetched :: rest) :
    engineStep s = .next { s with todo := rest, fetched := true } := by
  simp [engineStep, ht, perform, Micro.event]

theorem engineStep_decodeStatus {s : State} {rest : List Micro} (ht : s.todo = .decodeStatus :: rest) :
    engineStep s =
      .next { s with todo := rest, record := s.record.withStatus (Memory.read s.rxbuf (s.rxlen.toNat - 1)) } := by
  simp [engineStep, ht, perform, Micro.event]

theorem engineStep_pollRb {s : State} {k : Poll} {rest : List Micro} (ht : s.todo = .pollRb k :: rest) :
    engineStep s = .next (pollSample k { s with todo := rest }) := by
  simp [engineStep, ht, perform, Micro.event]

theorem engineStep_pollClk {s : State} {k : Poll} {rest : List Micro} (ht : s.todo = .pollClk k :: rest) :
    engineStep s = .next (pollClock k { s with todo := rest }) := by
  simp [engineStep, ht, perform, Micro.event]

/-- Everything one engine step can do. -/
theorem engineStep_cases {s t : State} (h : engineStep s = .next t) :
    (s.todo = [] ∧ t = s.complete resOk) ∨
    ∃ m rest, s.todo = m :: rest ∧
      ((∃ e, m.event s.opnd.txbuf s.pins = some e ∧ t = ({ s with todo := rest }).emit e) ∨
       (m = .sampleDQ ∧ s.pins.dqDir = .inp ∧ t = ({ s with todo := rest }).sampleDq) ∨
       (m = .clkStart ∧ t = { ({ s with todo := rest }).readClk with tStart := s.nextClk }) ∨
       (∃ k, m = .pollRb k ∧ t = pollSample k { s with todo := rest }) ∨
       (∃ k, m = .pollClk k ∧ t = pollClock k { s with todo := rest }) ∨
       (m = .clkBusyStart ∧ t = { ({ s with todo := rest }).readClk with busyStart := s.nextClk }) ∨
       (m = .clkBusyEnd ∧ t = { ({ s with todo := rest }).readClk with
          record := { s.record with durationNs := s.nextClk - s.busyStart } }) ∨
       (∃ k, m = .setIdx k ∧ t = { s with todo := rest, idx := k }) ∨
       (m = .busySeen ∧ t = { s with todo := rest, record := { s.record with busyDetected := true } }) ∨
       (m = .setFetched ∧ t = { s with todo := rest, fetched := true }) ∨
       (m = .decodeStatus ∧
          t = { s with todo := rest, record := s.record.withStatus (Memory.read s.rxbuf (s.rxlen.toNat - 1)) }) ∨
       (∃ code, m = .done code ∧ t = ({ s with todo := rest }).complete code)) := by
  cases ht : s.todo with
  | nil => rw [engineStep_nil ht] at h; cases h; exact .inl ⟨rfl, rfl⟩
  | cons m rest =>
    refine .inr ⟨m, rest, rfl, ?_⟩
    cases he : m.event s.opnd.txbuf s.pins with
    | some e => rw [engineStep_event ht he] at h; cases h; exact .inl ⟨e, rfl, rfl⟩
    | none =>
      cases m <;> simp only [Micro.event, reduceCtorEq] at he
      case sampleDQ =>
        cases hd : s.pins.dqDir with
        | inp => rw [engineStep_sampleDQ ht hd] at h; cases h; simp
        | out => rw [engineStep_sampleDQ_fault ht hd] at h; cases h
      case clkStart => rw [engineStep_clkStart ht] at h; cases h; simp
      case pollRb k => rw [engineStep_pollRb ht] at h; cases h; simp
      case pollClk k => rw [engineStep_pollClk ht] at h; cases h; simp
      case clkBusyStart => rw [engineStep_clkBusyStart ht] at h; cases h; simp
      case clkBusyEnd => rw [engineStep_clkBusyEnd ht] at h; cases h; simp
      case setIdx k => rw [engineStep_setIdx ht] at h; cases h; simp
      case busySeen => rw [engineStep_busySeen ht] at h; cases h; simp
      case setFetched => rw [engineStep_setFetched ht] at h; cases h; simp
      case decodeStatus => rw [engineStep_decodeStatus ht] at h; cases h; simp
      case done code => rw [engineStep_done ht] at h; cases h; simp

/-! ## Polling loops -/

/-- Everything a sample of a polling loop can do: leave the loop, go round (no bound), or go on to the clock read. -/
theorem pollSample_cases (k : Poll) (s : State) :
    (s.nextRb = k.want ∧ ∃ q, pollSample k s = { s.sampleRb with seq := q }) ∨
    (s.nextRb ≠ k.want ∧ k.bound = none ∧
      pollSample k s = { s.sampleRb with todo := .pollRb k :: s.todo, seq := s.seq }) ∨
    (s.nextRb ≠ k.want ∧ k.bound ≠ none ∧ pollSample k s = { s.sampleRb with todo := .pollClk k :: s.todo }) := by
  by_cases h : s.nextRb = k.want
  · refine .inl ⟨h, ?_⟩
    cases hb : k.bound
    · exact ⟨s.sampleRb.seq, by simp only [pollSample, h, hb, if_true]⟩
    · exact ⟨s.seq + 2, by simp only [pollSample, h, hb, if_true]⟩
  · refine .inr ?_
    cases hb : k.bound
    · exact .inl ⟨h, rfl, by simp only [pollSample, h, hb, if_false]⟩
    · exact .inr ⟨h, by simp, by simp only [pollSample, h, hb, if_false]⟩

/-- Everything the clock read of a bounded loop can do: leave on the bound, or go round. -/
theorem pollClock_cases (k : Poll) (s : State) :
    (k.expired s.nextClk s = true ∧ pollClock k s = k.onExpiry s.readClk) ∨
    (k.expired s.nextClk s = false ∧
      pollClock k s = { s.readClk with todo := .pollRb k :: s.todo, seq := s.seq - 1 }) := by
  unfold pollClock
  cases h : k.expired s.nextClk s <;> simp

/-- Everything that happens when a bound is hit. -/
theorem Poll.onExpiry_cases (k : Poll) (s : State) :
    (∃ raisedWp code, k.onExpiry s = s.leaveEarly raisedWp code ∧
      (code = resTimeout ∨ code = resDeviceNotResponding ∨ code = resOk)) ∨
    k.onExpiry s = { s with record := { s.record with timedOut := true } } ∨ k.onExpiry s = s := by
  cases k with
  | untilReady => exact .inr (.inr rfl)
  | waitBound _ => exact .inl ⟨_, _, rfl, by simp⟩
  | guardReady _ => exact .inl ⟨_, _, rfl, by simp⟩
  | busyAssert _ _ => exact .inl ⟨_, _, rfl, by simp⟩
  | busyComplete _ => exact .inr (.inl rfl)

/-! ## The clock -/

/-- The law of R38. -/
theorem State.clkLast_le_nextClk (s : State) : s.clkLast.toNat ≤ s.nextClk.toNat := by
  unfold State.nextClk; split <;> omega

/-- A scripted clock value that does not go back is read as it stands. -/
theorem State.nextClk_cons {s : State} {t : Word64} {ts : List Word64} (h : s.env.clk = t :: ts)
    (hle : s.clkLast.toNat ≤ t.toNat) : s.nextClk = t := by
  simp only [State.nextClk, State.rawClk, h]; rw [if_neg (by omega)]

theorem State.nextRb_cons {s : State} {v : Level} {vs : List Level} (h : s.env.rb = v :: vs) : s.nextRb = v := by
  simp [State.nextRb, h]

/-! ## Runs of steps -/

/-- The engine goes from one state to another by steps none of which starts settled. -/
inductive Path : State → State → Prop
  | refl (s : State) : Path s s
  | step {s t u : State} (hs : s.settled = false) (he : engineStep s = .next t) (hp : Path t u) : Path s u

theorem Path.trans {s t u : State} (h : Path s t) (h' : Path t u) : Path s u := by
  induction h with
  | refl => exact h'
  | step hs he _ ih => exact .step hs he (ih h')

theorem drive_settled {s : State} (h : s.settled = true) (n : Nat) : drive n s = .next s := by
  cases n <;> simp [drive, h]

theorem drive_succ {s t : State} (h : s.settled = false) (he : engineStep s = .next t) (n : Nat) :
    drive (n + 1) s = drive n t := by
  simp [drive, h, he]

/-- A run that ends settled is what driving comes to, once there is fuel for it. -/
theorem Path.drive {s t : State} (h : Path s t) (ht : t.settled = true) : ∃ k, ∀ n, Machine.drive (k + n) s = .next t := by
  induction h with
  | refl => exact ⟨0, fun n => drive_settled ht _⟩
  | step hs he _ ih =>
    obtain ⟨k, hk⟩ := ih ht
    exact ⟨k + 1, fun n => by rw [show k + 1 + n = (k + n) + 1 by omega, drive_succ hs he, hk]⟩

/-- Driving along a run never stops short of a next state. -/
theorem Path.drive_next {s t : State} (h : Path s t) (ht : t.settled = true) (n : Nat) :
    ∃ u, Machine.drive n s = .next u := by
  induction h generalizing n with
  | refl => exact ⟨_, drive_settled ht _⟩
  | step hs he _ ih =>
    cases n with
    | zero => exact ⟨_, rfl⟩
    | succ n => rw [drive_succ hs he]; exact ih ht n

/-- More fuel changes nothing once the run has settled. -/
theorem drive_more {n : Nat} {s t : State} (h : Machine.drive n s = .next t) (ht : t.settled = true) (m : Nat) :
    Machine.drive (n + m) s = .next t := by
  induction n generalizing s with
  | zero => cases h; exact drive_settled ht _
  | succ n ih =>
    by_cases hs : s.settled = true
    · rw [drive_settled hs] at h; cases h; exact drive_settled hs _
    · rw [Bool.not_eq_true] at hs
      cases he : engineStep s with
      | next u =>
        rw [drive_succ hs he] at h
        rw [show n + 1 + m = (n + m) + 1 by omega, drive_succ hs he]
        exact ih h
      | fault r => simp [Machine.drive, hs, he] at h
      | refused r => simp [Machine.drive, hs, he] at h

/-! ## A settling run settles -/

/-- An entry of a polling loop. -/
def Micro.polls : Micro → Bool
  | .pollRb _ => true
  | .pollClk _ => true
  | _ => false

/-- How many steps an entry can cost: two for the clock read of a loop, which may be followed by another sample. -/
def Micro.cost : Micro → Nat
  | .pollClk _ => 2
  | _ => 1

/-- What the entries left can cost. -/
def costLeft : List Micro → Nat
  | [] => 0
  | m :: rest => m.cost + costLeft rest

/-- 1 if a polling loop is left. -/
def loopLeft : List Micro → Nat
  | [] => 0
  | m :: rest => if m.polls then 1 else loopLeft rest

/-- What an unsettled run uses up. -/
def potential (s : State) : Nat := costLeft s.todo + 2 * s.env.rb.length + loopLeft s.todo

theorem loopLeft_le (l : List Micro) : loopLeft l ≤ 1 := by
  induction l with
  | nil => simp [loopLeft]
  | cons m l ih => simp only [loopLeft]; split <;> omega

theorem costLeft_le (l : List Micro) : costLeft l ≤ 2 * l.length := by
  induction l with
  | nil => rfl
  | cons m l ih =>
    have : m.cost ≤ 2 := by cases m <;> simp [Micro.cost]
    simp only [costLeft, List.length_cons]; omega

theorem potential_lt_fuel {s : State} (hs : s.slice = none) : potential s < s.fuel := by
  have := costLeft_le s.todo
  have := loopLeft_le s.todo
  simp only [potential, State.fuel, hs]
  omega

/-- Leaving an entry behind uses up potential. -/
theorem left_behind (m : Micro) (rest : List Micro) :
    costLeft rest + loopLeft rest < costLeft (m :: rest) + loopLeft (m :: rest) := by
  have h1 : 1 ≤ m.cost := by cases m <;> simp [Micro.cost]
  have h2 := loopLeft_le rest
  simp only [costLeft, loopLeft]
  split <;> omega

/-- Every step of an unsettled run completes the operation or uses up some of the potential. -/
theorem engineStep_potential {s t : State} (hs : s.settled = false) (h : engineStep s = .next t) :
    t.run = .ready ∨ potential t < potential s := by
  rcases engineStep_cases h with ⟨-, rfl⟩ | ⟨m, rest, ht, hm⟩
  · exact .inl rfl
  clear h
  have hl := left_behind m rest
  have hkeep : ∀ u : State, u.todo = rest → u.env.rb = s.env.rb → u.run = .ready ∨ potential u < potential s := by
    intro u h1 h2
    refine .inr ?_
    simp only [potential, h1, h2, ht]
    omega
  rcases hm with ⟨e, -, rfl⟩ | ⟨rfl, -, rfl⟩ | ⟨rfl, rfl⟩ | ⟨k, rfl, rfl⟩ | ⟨k, rfl, rfl⟩ | ⟨rfl, rfl⟩ | ⟨rfl, rfl⟩ |
    ⟨k, rfl, rfl⟩ | ⟨rfl, rfl⟩ | ⟨rfl, rfl⟩ | ⟨rfl, rfl⟩ | ⟨code, rfl, rfl⟩
  · exact hkeep _ rfl rfl
  · exact hkeep _ rfl rfl
  · exact hkeep _ rfl rfl
  · have hrb : s.env.rb ≠ [] := by
      intro hn; rw [State.settled, ht, hn] at hs; simp [atRbSample] at hs
    obtain ⟨v, vs, hv⟩ := List.exists_cons_of_ne_nil hrb
    have := loopLeft_le rest
    refine .inr ?_
    rcases pollSample_cases k { s with todo := rest } with ⟨-, q, hq⟩ | ⟨-, -, hq⟩ | ⟨-, -, hq⟩ <;> rw [hq] <;>
      simp only [potential, State.sampleRb_todo, State.sampleRb_env, ht, hv, List.tail_cons, List.length_cons,
        costLeft, Micro.cost, loopLeft, Micro.polls, if_true] <;> omega
  · have := loopLeft_le rest
    rcases pollClock_cases k { s with todo := rest } with ⟨-, hq⟩ | ⟨-, hq⟩ <;> rw [hq]
    · rcases Poll.onExpiry_cases k (State.readClk { s with todo := rest }) with ⟨r, c, hr, -⟩ | hr | hr <;> rw [hr]
      · refine .inr ?_
        simp only [potential, State.leaveEarly_todo, State.leaveEarly_env, State.readClk_env, ht]
        cases r <;> simp [lowerWp, costLeft, Micro.cost, loopLeft, Micro.polls]; omega
      · exact hkeep _ rfl rfl
      · exact hkeep _ rfl rfl
    · refine .inr ?_
      simp [potential, ht, costLeft, Micro.cost, loopLeft, Micro.polls]
  · exact hkeep _ rfl rfl
  · exact hkeep _ rfl rfl
  · exact hkeep _ rfl rfl
  · exact hkeep _ rfl rfl
  · exact hkeep _ rfl rfl
  · exact hkeep _ rfl rfl
  · exact .inl rfl

/-- With the fuel of `settle` a run that nothing cuts short settles, whatever the state. -/
theorem drive_settles {n : Nat} {s t : State} (hn : potential s < n) (h : drive n s = .next t) : t.settled = true := by
  induction n generalizing s with
  | zero => omega
  | succ n ih =>
    by_cases hs : s.settled = true
    · rw [drive_settled hs] at h; cases h; exact hs
    · rw [Bool.not_eq_true] at hs
      cases he : engineStep s with
      | next u =>
        rw [drive_succ hs he] at h
        rcases engineStep_potential hs he with hr | hp
        · have hu : u.settled = true := by simp [State.settled, hr]
          rw [drive_settled hu] at h; cases h; exact hu
        · exact ih (by omega) h
      | fault r => simp [drive, hs, he] at h
      | refused r => simp [drive, hs, he] at h

theorem settle_settles {s t : State} (hs : s.slice = none) (h : s.settle = .next t) : t.settled = true :=
  drive_settles (potential_lt_fuel hs) h

/-- A run of steps that ends settled is what `settle` comes to. -/
theorem Path.settle {s t : State} (h : Path s t) (ht : t.settled = true) (hs : s.slice = none) :
    s.settle = .next t := by
  obtain ⟨u, hu⟩ := h.drive_next ht s.fuel
  obtain ⟨k, hk⟩ := h.drive ht
  have h1 := drive_more hu (settle_settles hs hu) k
  have h2 := hk s.fuel
  rw [Nat.add_comm, h2] at h1
  cases h1; exact hu

/-- What holds at the start of a settling run and is kept by every engine step holds at its end. -/
theorem drive_induction {P : State → Prop} (step : ∀ {s t : State}, P s → s.settled = false → engineStep s = .next t → P t)
    {n : Nat} {s t : State} (hs : P s) (h : drive n s = .next t) : P t := by
  induction n generalizing s with
  | zero => cases h; exact hs
  | succ n ih =>
    by_cases hset : s.settled = true
    · rw [drive_settled hset] at h; cases h; exact hs
    · rw [Bool.not_eq_true] at hset
      cases he : engineStep s with
      | next u => rw [drive_succ hset he] at h; exact ih (step hs hset he) h
      | fault r => simp [drive, hset, he] at h
      | refused r => simp [drive, hset, he] at h

/-- Where no engine step faults or is refused, a settling run answers a next state. -/
theorem drive_answers {P : State → Prop} (step : ∀ {s : State}, P s → s.settled = false → ∃ t, engineStep s = .next t ∧ P t)
    (n : Nat) {s : State} (hs : P s) : ∃ t, drive n s = .next t ∧ P t := by
  induction n generalizing s with
  | zero => exact ⟨s, rfl, hs⟩
  | succ n ih =>
    by_cases hset : s.settled = true
    · exact ⟨s, drive_settled hset _, hs⟩
    · rw [Bool.not_eq_true] at hset
      obtain ⟨u, he, hu⟩ := step hs hset
      rw [drive_succ hset he]; exact ih hu

/-! ## Requests -/

theorem firstFailure_none_iff (l : List (Option OperandCheck)) : firstFailure l = none ↔ ∀ c ∈ l, c = none := by
  induction l with
  | nil => simp [firstFailure]
  | cons c l ih => cases c <;> simp [firstFailure, ih]

/-- A request whose checks hold is accepted and runs until it settles. -/
theorem request_accept {checks : List (Option OperandCheck)} {steps : List Micro} {s : State} (hr : s.run = .ready)
    (hc : firstFailure checks = none) : request checks steps s = (s.accept (steps ++ [.done resOk])).settle := by
  simp [request, hr, hc]

/-- A request one of whose checks fails is refused: `RES` is 5 and nothing else changes. -/
theorem request_refuse {checks : List (Option OperandCheck)} {steps : List Micro} {s : State} (hr : s.run = .ready)
    (hc : firstFailure checks ≠ none) : request checks steps s = .next s.refuse := by
  cases h : firstFailure checks with
  | none => exact absurd h hc
  | some c => simp [request, hr, h]

theorem request_running {checks : List (Option OperandCheck)} {steps : List Micro} {s : State} (hr : s.run = .running) :
    request checks steps s = .refused .requestWhileRunning := by
  simp [request, hr]

/-- Everything a request can do. -/
theorem request_cases {checks : List (Option OperandCheck)} {steps : List Micro} {s t : State}
    (h : request checks steps s = .next t) :
    s.run = .ready ∧
      ((firstFailure checks ≠ none ∧ t = s.refuse) ∨
       (firstFailure checks = none ∧ (s.accept (steps ++ [.done resOk])).settle = .next t)) := by
  cases hr : s.run with
  | running => rw [request_running hr] at h; cases h
  | ready =>
    by_cases hc : firstFailure checks = none
    · rw [request_accept hr hc] at h; exact ⟨rfl, .inr ⟨hc, h⟩⟩
    · rw [request_refuse hr hc] at h; cases h; exact ⟨rfl, .inl ⟨hc, rfl⟩⟩

@[simp] theorem checkAlen_none (n : BitVec 4) : checkAlen n = none ↔ WellFormed.alen n = true := by
  unfold checkAlen; split <;> simp_all [WellFormed.alen, maxAddr]

@[simp] theorem checkCount_none (s : State) (c : Word32) : checkCount s c = none ↔ WellFormed.count s.maxBurst c = true := by
  simp [checkCount, WellFormed.count]

@[simp] theorem checkParity_none (s : State) (c : Word32) : checkParity s c = none ↔ WellFormed.parity s.mode c = true := by
  unfold checkParity WellFormed.parity
  cases s.mode <;> simp

@[simp] theorem checkCcyc_none (b : Option (BitVec 2)) : checkCcyc b = none ↔ WellFormed.ccyc b = true := by
  cases b with
  | none => simp [checkCcyc, WellFormed.ccyc]
  | some c => unfold checkCcyc; dsimp only; split <;> simp_all [WellFormed.ccyc]

@[simp] theorem checkSubpage_none (x : Byte) : checkSubpage x = none ↔ WellFormed.subpage x = true := by
  unfold checkSubpage; split <;> simp_all [WellFormed.subpage]
  rcases ‹_ ∨ _› with rfl | rfl | rfl <;> simp

end Sys2Proof.Machine
end

