-- ==== Sys2Proof/Laws/Memory.lean ====
section
/-! SUPPORT. The byte buffers: a read after a write, and every operation keeps the canonical form. -/

namespace Sys2Proof

@[simp] theorem Memory.read_nil (a : Nat) : Memory.read [] a = Memory.background := rfl

@[simp] theorem Memory.wf_nil : Memory.wf [] = true := rfl

theorem Memory.wfFrom_cons (lo k : Nat) (b : Byte) (m : Memory) :
    Memory.wfFrom lo ((k, b) :: m) = true ↔ lo ≤ k ∧ b ≠ Memory.background ∧ Memory.wfFrom (k + 1) m = true := by
  simp [Memory.wfFrom, and_assoc]

/-- Below the bound of a canonical list every index is unlisted. -/
theorem Memory.read_below {m : Memory} {lo a : Nat} (h : Memory.wfFrom lo m = true) (ha : a < lo) :
    Memory.read m a = Memory.background := by
  induction m generalizing lo with
  | nil => rfl
  | cons c m ih =>
    obtain ⟨k, b⟩ := c
    obtain ⟨hk, -, hm⟩ := (Memory.wfFrom_cons ..).1 h
    have hne : a ≠ k := by omega
    simp only [Memory.read, hne, if_false]
    exact ih hm (by omega)

theorem Memory.wfFrom_mono {m : Memory} {lo lo' : Nat} (h : Memory.wfFrom lo m = true) (hl : lo' ≤ lo) :
    Memory.wfFrom lo' m = true := by
  cases m with
  | nil => rfl
  | cons c m =>
    obtain ⟨hk, hb, hm⟩ := (Memory.wfFrom_cons ..).1 h
    exact (Memory.wfFrom_cons ..).2 ⟨by omega, hb, hm⟩

theorem Memory.read_insert (m : Memory) (a x : Nat) (b : Byte) :
    Memory.read (Memory.insert m a b) x = if x = a then b else Memory.read m x := by
  induction m with
  | nil => simp [Memory.insert, Memory.read]
  | cons c m ih =>
    obtain ⟨k, c⟩ := c
    simp only [Memory.insert]
    split
    · simp [Memory.read]
    · split
      · subst_vars
        simp only [Memory.read]
        split <;> rfl
      · simp only [Memory.read, ih]
        split
        · rw [if_neg]; omega
        · rfl

theorem Memory.read_erase {m : Memory} {lo : Nat} (h : Memory.wfFrom lo m = true) (a x : Nat) :
    Memory.read (Memory.erase m a) x = if x = a then Memory.background else Memory.read m x := by
  induction m generalizing lo with
  | nil => simp [Memory.erase]
  | cons c m ih =>
    obtain ⟨k, c⟩ := c
    obtain ⟨hk, hc, hm⟩ := (Memory.wfFrom_cons ..).1 h
    simp only [Memory.erase]
    split
    · subst_vars
      simp only [Memory.read]
      split
      · subst_vars; exact Memory.read_below hm (by omega)
      · rfl
    · simp only [Memory.read, ih hm]
      split
      · rw [if_neg]; omega
      · rfl

/-- A read after a write: the byte written at its index, every other index as before. -/
theorem Memory.read_write {m : Memory} (h : Memory.wf m = true) (a x : Nat) (b : Byte) :
    Memory.read (Memory.write m a b) x = if x = a then b else Memory.read m x := by
  unfold Memory.write
  split
  · rw [Memory.read_erase h]; subst_vars; rfl
  · exact Memory.read_insert ..

theorem Memory.wfFrom_insert {m : Memory} {lo a : Nat} {b : Byte} (h : Memory.wfFrom lo m = true) (ha : lo ≤ a)
    (hb : b ≠ Memory.background) : Memory.wfFrom lo (Memory.insert m a b) = true := by
  induction m generalizing lo with
  | nil => simp [Memory.insert, Memory.wfFrom, ha, hb]
  | cons c m ih =>
    obtain ⟨k, c⟩ := c
    obtain ⟨hk, hc, hm⟩ := (Memory.wfFrom_cons ..).1 h
    simp only [Memory.insert]
    split
    · exact (Memory.wfFrom_cons ..).2 ⟨ha, hb, (Memory.wfFrom_cons ..).2 ⟨by omega, hc, hm⟩⟩
    · split
      · subst_vars; exact (Memory.wfFrom_cons ..).2 ⟨ha, hb, hm⟩
      · exact (Memory.wfFrom_cons ..).2 ⟨hk, hc, ih hm (by omega)⟩

theorem Memory.wfFrom_erase {m : Memory} {lo : Nat} (h : Memory.wfFrom lo m = true) (a : Nat) :
    Memory.wfFrom lo (Memory.erase m a) = true := by
  induction m generalizing lo with
  | nil => rfl
  | cons c m ih =>
    obtain ⟨k, c⟩ := c
    obtain ⟨hk, hc, hm⟩ := (Memory.wfFrom_cons ..).1 h
    simp only [Memory.erase]
    split
    · exact Memory.wfFrom_mono hm (by omega)
    · exact (Memory.wfFrom_cons ..).2 ⟨hk, hc, ih hm⟩

/-- A write keeps the canonical form. -/
theorem Memory.wf_write {m : Memory} (h : Memory.wf m = true) (a : Nat) (b : Byte) :
    Memory.wf (Memory.write m a b) = true := by
  unfold Memory.write
  split
  · exact Memory.wfFrom_erase h a
  · exact Memory.wfFrom_insert h (Nat.zero_le _) ‹_›

theorem Memory.wf_writeList {m : Memory} (h : Memory.wf m = true) (a : Nat) (bs : List Byte) :
    Memory.wf (Memory.writeList m a bs) = true := by
  induction bs generalizing m a with
  | nil => exact h
  | cons b bs ih => exact ih (Memory.wf_write h a b) (a + 1)

/-- A buffer made of bytes is in canonical form. -/
theorem Memory.wf_ofBytes (bs : List Byte) : Memory.wf (Memory.ofBytes bs) = true :=
  Memory.wf_writeList rfl 0 bs

/-- Reading after consecutive writes from index `a` on. -/
theorem Memory.read_writeList {m : Memory} (h : Memory.wf m = true) (a x : Nat) (bs : List Byte) :
    Memory.read (Memory.writeList m a bs) x =
      if a ≤ x then (bs[x - a]?).getD (Memory.read m x) else Memory.read m x := by
  induction bs generalizing m a with
  | nil => simp [Memory.writeList]
  | cons b bs ih =>
    simp only [Memory.writeList, ih (Memory.wf_write h a b), Memory.read_write h]
    rcases Nat.lt_trichotomy x a with hx | rfl | hx
    · rw [if_neg (by omega), if_neg (by omega), if_neg (by omega)]
    · simp
    · obtain ⟨d, rfl⟩ : ∃ d, x = a + 1 + d := ⟨x - (a + 1), by omega⟩
      have e1 : a + 1 + d - (a + 1) = d := by omega
      have e2 : a + 1 + d - a = d + 1 := by omega
      rw [if_pos (by omega), if_neg (by omega), if_pos (by omega), e1, e2]
      rfl

/-- Equal canonical buffers: two canonical buffers that read alike everywhere are one list. -/
theorem Memory.ext_read {m n : Memory} {lo : Nat} (hm : Memory.wfFrom lo m = true) (hn : Memory.wfFrom lo n = true)
    (h : ∀ a, Memory.read m a = Memory.read n a) : m = n := by
  induction m generalizing n lo with
  | nil =>
    cases n with
    | nil => rfl
    | cons c n =>
      obtain ⟨k, c⟩ := c
      obtain ⟨-, hc, -⟩ := (Memory.wfFrom_cons ..).1 hn
      exact absurd (by simpa [Memory.read] using (h k).symm) hc
  | cons c m ih =>
    obtain ⟨k, b⟩ := c
    obtain ⟨hk, hb, hm'⟩ := (Memory.wfFrom_cons ..).1 hm
    cases n with
    | nil => exact absurd (by simpa [Memory.read] using h k) hb
    | cons d n =>
      obtain ⟨l, c⟩ := d
      obtain ⟨hl, hc, hn'⟩ := (Memory.wfFrom_cons ..).1 hn
      have hkl : k = l := by
        rcases Nat.lt_trichotomy k l with hx | hx | hx
        · have := h k
          rw [Memory.read, if_pos rfl, Memory.read, if_neg (by omega), Memory.read_below hn' (by omega)] at this
          exact absurd this hb
        · exact hx
        · have := h l
          rw [Memory.read, if_neg (by omega), Memory.read_below hm' (by omega), Memory.read, if_pos rfl] at this
          exact absurd this.symm hc
      subst hkl
      have hbc : b = c := by simpa [Memory.read] using h k
      subst hbc
      congr 1
      refine ih hm' hn' fun a => ?_
      have ha := h a
      by_cases e : a = k
      · subst e
        rw [Memory.read_below hm' (by omega), Memory.read_below hn' (by omega)]
      · simpa [Memory.read, e] using ha

end Sys2Proof
end

