-- ==== Sys2Proof/Laws/PerInstr.lean ====
section
/-! SUPPORT. Statements made of every instruction, one lemma per constructor. -/

namespace Sys2Proof

/-- The high nibble of `OP` that names a family (R91). -/
def Family.nibble : Family → BitVec 4
  | .primitive => 0
  | .dispatcher => 1
  | .timed => 2

theorem encodeFlags_reserved (a b c d e : Bool) : (encodeFlags a b c d e).extractLsb' 5 3 = 0 := by
  revert a b c d e; decide

theorem no_reserved_flags : (0 : Byte).extractLsb' 5 3 = 0 := by decide

namespace Laws

/-- The code of an instruction lies in its family's block of codes, and its encoding sets no reserved flag (R91, R93). -/
def OpNibble.Statement (i : Instr) : Prop :=
  (encode i).op.extractLsb' 4 4 = i.family.nibble ∧ (encode i).reservedFlags = 0

theorem OpNibble.idle :
    OpNibble.Statement .idle :=
  ⟨(by decide : BitVec.extractLsb' 4 4 (0x00 : Byte) = 0), no_reserved_flags⟩

theorem OpNibble.sendCommand (x1 : Byte) :
    OpNibble.Statement (.sendCommand x1) :=
  ⟨(by decide : BitVec.extractLsb' 4 4 (0x01 : Byte) = 0), no_reserved_flags⟩

theorem OpNibble.sendAddresses (x1 : AddrArray) (x2 : BitVec 4) :
    OpNibble.Statement (.sendAddresses x1 x2) :=
  ⟨(by decide : BitVec.extractLsb' 4 4 (0x02 : Byte) = 0), no_reserved_flags⟩

theorem OpNibble.sendData (x1 : Word32) :
    OpNibble.Statement (.sendData x1) :=
  ⟨(by decide : BitVec.extractLsb' 4 4 (0x03 : Byte) = 0), no_reserved_flags⟩

theorem OpNibble.readData (x1 : Word32) :
    OpNibble.Statement (.readData x1) :=
  ⟨(by decide : BitVec.extractLsb' 4 4 (0x04 : Byte) = 0), no_reserved_flags⟩

theorem OpNibble.waitReady (x1 : Option Word64) :
    OpNibble.Statement (.waitReady x1) :=
  ⟨(by decide : BitVec.extractLsb' 4 4 (0x05 : Byte) = 0), encodeFlags_reserved ..⟩

theorem OpNibble.enableErase :
    OpNibble.Statement .enableErase :=
  ⟨(by decide : BitVec.extractLsb' 4 4 (0x06 : Byte) = 0), no_reserved_flags⟩

theorem OpNibble.disableErase :
    OpNibble.Statement .disableErase :=
  ⟨(by decide : BitVec.extractLsb' 4 4 (0x07 : Byte) = 0), no_reserved_flags⟩

theorem OpNibble.measureBusy (x1 : Word64) (x2 : Word64) :
    OpNibble.Statement (.measureBusy x1 x2) :=
  ⟨(by decide : BitVec.extractLsb' 4 4 (0x08 : Byte) = 0), no_reserved_flags⟩

theorem OpNibble.reset :
    OpNibble.Statement .reset :=
  ⟨(by decide : BitVec.extractLsb' 4 4 (0x10 : Byte) = 1), no_reserved_flags⟩

theorem OpNibble.readId (x1 : Byte) (x2 : Word32) :
    OpNibble.Statement (.readId x1 x2) :=
  ⟨(by decide : BitVec.extractLsb' 4 4 (0x11 : Byte) = 1), no_reserved_flags⟩

theorem OpNibble.readUniqueId :
    OpNibble.Statement .readUniqueId :=
  ⟨(by decide : BitVec.extractLsb' 4 4 (0x12 : Byte) = 1), no_reserved_flags⟩

theorem OpNibble.readParameterPage (x1 : Bool) (x2 : Option (BitVec 2)) :
    OpNibble.Statement (.readParameterPage x1 x2) :=
  ⟨(by decide : BitVec.extractLsb' 4 4 (0x13 : Byte) = 1), encodeFlags_reserved ..⟩

theorem OpNibble.pageRead (x1 : AddrArray) (x2 : BitVec 4) (x3 : Word32) (x4 : Bool) (x5 : Option (BitVec 2)) :
    OpNibble.Statement (.pageRead x1 x2 x3 x4 x5) :=
  ⟨(by decide : BitVec.extractLsb' 4 4 (0x14 : Byte) = 1), encodeFlags_reserved ..⟩

theorem OpNibble.changeReadColumn (x1 : AddrArray) (x2 : BitVec 4) :
    OpNibble.Statement (.changeReadColumn x1 x2) :=
  ⟨(by decide : BitVec.extractLsb' 4 4 (0x15 : Byte) = 1), no_reserved_flags⟩

theorem OpNibble.pageProgram (x1 : AddrArray) (x2 : BitVec 4) (x3 : Word32) (x4 : Byte) :
    OpNibble.Statement (.pageProgram x1 x2 x3 x4) :=
  ⟨(by decide : BitVec.extractLsb' 4 4 (0x16 : Byte) = 1), no_reserved_flags⟩

theorem OpNibble.blockErase (x1 : AddrArray) (x2 : BitVec 4) :
    OpNibble.Statement (.blockErase x1 x2) :=
  ⟨(by decide : BitVec.extractLsb' 4 4 (0x17 : Byte) = 1), no_reserved_flags⟩

theorem OpNibble.setFeatures (x1 : Byte) :
    OpNibble.Statement (.setFeatures x1) :=
  ⟨(by decide : BitVec.extractLsb' 4 4 (0x18 : Byte) = 1), no_reserved_flags⟩

theorem OpNibble.getFeatures (x1 : Byte) :
    OpNibble.Statement (.getFeatures x1) :=
  ⟨(by decide : BitVec.extractLsb' 4 4 (0x19 : Byte) = 1), no_reserved_flags⟩

theorem OpNibble.readStatus :
    OpNibble.Statement .readStatus :=
  ⟨(by decide : BitVec.extractLsb' 4 4 (0x1A : Byte) = 1), no_reserved_flags⟩

theorem OpNibble.partialErase (x1 : AddrArray) (x2 : BitVec 4) (x3 : Word32) :
    OpNibble.Statement (.partialErase x1 x2 x3) :=
  ⟨(by decide : BitVec.extractLsb' 4 4 (0x1B : Byte) = 1), no_reserved_flags⟩

theorem OpNibble.tlcSubpageProgram (x1 : Byte) (x2 : AddrArray) (x3 : BitVec 4) (x4 : Word32) :
    OpNibble.Statement (.tlcSubpageProgram x1 x2 x3 x4) :=
  ⟨(by decide : BitVec.extractLsb' 4 4 (0x1C : Byte) = 1), no_reserved_flags⟩

theorem OpNibble.partialProgram (x1 : AddrArray) (x2 : BitVec 4) (x3 : Word32) (x4 : Byte) (x5 : Word32) :
    OpNibble.Statement (.partialProgram x1 x2 x3 x4 x5) :=
  ⟨(by decide : BitVec.extractLsb' 4 4 (0x1D : Byte) = 1), no_reserved_flags⟩

theorem OpNibble.tRead (x1 : AddrArray) (x2 : BitVec 4) (x3 : Word32) (x4 : Bool) (x5 : Bool) (x6 : Word64) (x7 : Word64) :
    OpNibble.Statement (.tRead x1 x2 x3 x4 x5 x6 x7) :=
  ⟨(by decide : BitVec.extractLsb' 4 4 (0x20 : Byte) = 2), encodeFlags_reserved ..⟩

theorem OpNibble.tProgram (x1 : AddrArray) (x2 : BitVec 4) (x3 : Word32) (x4 : Byte) (x5 : Word64) (x6 : Word64) :
    OpNibble.Statement (.tProgram x1 x2 x3 x4 x5 x6) :=
  ⟨(by decide : BitVec.extractLsb' 4 4 (0x21 : Byte) = 2), no_reserved_flags⟩

theorem OpNibble.tErase (x1 : AddrArray) (x2 : BitVec 4) (x3 : Word64) (x4 : Word64) :
    OpNibble.Statement (.tErase x1 x2 x3 x4) :=
  ⟨(by decide : BitVec.extractLsb' 4 4 (0x22 : Byte) = 2), no_reserved_flags⟩

end Laws

end Sys2Proof
end

