-- ==== Sys2Proof/Laws/Segments.lean ====
section
/-! SUPPORT. What each shared run of steps (a command, an address, a burst, a wait, a busy window) does: where the engine
stands after it and what is seen of it. A statement about an operation is put together from these. -/

namespace Sys2Proof.Machine

/-! ## Pins and traces -/

theorem pinsAfter_append (p : Pins) (es fs : List Event) : pinsAfter p (es ++ fs) = pinsAfter (pinsAfter p es) fs := by
  induction es generalizing p with
  | nil => rfl
  | cons e es ih => exact ih _

theorem observe_append (p : Pins) (es fs : List Event) :
    observe p (es ++ fs) = observe p es ++ observe (pinsAfter p es) fs := by
  induction es generalizing p with
  | nil => rfl
  | cons e es ih => simp [observe, pinsAfter, ih]

theorem alongTrace_append (ok : Pins → Event → Bool) (p : Pins) (es fs : List Event) :
    alongTrace ok p (es ++ fs) = (alongTrace ok p es && alongTrace ok (pinsAfter p es) fs) := by
  induction es generalizing p with
  | nil => simp [alongTrace, pinsAfter]
  | cons e es ih => simp [alongTrace, pinsAfter, ih, Bool.and_assoc]

theorem edges_append (q : Pin) (v : Level) (p : Pins) (es fs : List Event) :
    edges q v p (es ++ fs) = edges q v p es + edges q v (pinsAfter p es) fs := by
  induction es generalizing p with
  | nil => simp [edges, pinsAfter]
  | cons e es ih => simp [edges, pinsAfter, ih, Nat.add_assoc]

/-- Driving a byte leaves exactly that byte, whatever the latch held (R41). -/
@[simp] theorem drive_byte (old b : Byte) : (old &&& b) ||| b = b := by
  apply BitVec.eq_of_getLsbD_eq; intro k _; simp

/-- The idle pins, written out: only WP and the strobe latches are open. -/
theorem Pins.idle_eq {p : Pins} (h : p.isIdle = true) :
    p = { ce := true, we := true, re := true, cle := false, ale := false, wp := p.wp, dqs := p.dqs, dqsc := p.dqsc,
          dqOut := 0x00, dqDir := .out, strobeDir := .inp } := by
  obtain ⟨ce, we, re, cle, ale, wp, dqs, dqsc, o, d, sd⟩ := p
  simp only [Pins.isIdle, Bool.and_eq_true, beq_iff_eq, Bool.not_eq_true'] at h
  obtain ⟨⟨⟨⟨⟨⟨⟨rfl, rfl⟩, rfl⟩, rfl⟩, rfl⟩, rfl⟩, rfl⟩, rfl⟩ := h
  rfl

theorem Pins.toIdle_of_idle {p : Pins} (h : p.isIdle = true) : p.toIdle = p := by
  rw [Pins.idle_eq h]; rfl

@[simp] theorem Pins.toIdle_isIdle (p : Pins) : p.toIdle.isIdle = true := by
  simp [Pins.toIdle, Pins.isIdle]

/-! ## Runs -/

/-- The engine goes from one state to another, and this is seen of the run. -/
structure Run (s t : State) (seen : List Seen) : Prop where
  path : Path s t
  shown : ∃ es, t.trace = s.trace ++ es ∧ observe s.pins es = seen ∧ pinsAfter s.pins es = t.pins

theorem Run.refl (s : State) : Run s s [] := ⟨.refl s, [], by simp, rfl, rfl⟩

theorem Run.trans {s t u : State} {a b : List Seen} (h : Run s t a) (h' : Run t u b) : Run s u (a ++ b) := by
  obtain ⟨es, h1, h2, h3⟩ := h.shown
  obtain ⟨fs, g1, g2, g3⟩ := h'.shown
  refine ⟨h.path.trans h'.path, es ++ fs, ?_, ?_, ?_⟩
  · rw [g1, h1, List.append_assoc]
  · rw [observe_append, h2, h3, g2]
  · rw [pinsAfter_append, h3, g3]

/-- A running state whose next entry is no R/B# sample is not settled. -/
theorem unsettled_of_entry {s : State} {m : Micro} {rest : List Micro} (hr : s.run = .running) (ht : s.todo = m :: rest)
    (hm : m.polls = false) : s.settled = false := by
  cases m <;> simp_all [State.settled, atRbSample, Micro.polls]

theorem unsettled_of_clk {s : State} {k : Poll} {rest : List Micro} (hr : s.run = .running)
    (ht : s.todo = .pollClk k :: rest) : s.settled = false := by
  simp [State.settled, hr, ht, atRbSample]

/-- A running state with a scripted R/B# sample is not settled. -/
theorem unsettled_of_script {s : State} {v : Level} {vs : List Level} (hr : s.run = .running) (he : s.env.rb = v :: vs) :
    s.settled = false := by
  simp [State.settled, hr, he]

/-- The events of entries that take no sample. -/
def lineEvents (tx : Memory) : Pins → List Micro → Option (List Event)
  | _, [] => some []
  | p, .setIdx _ :: ms => lineEvents tx p ms
  | p, m :: ms =>
    match m.event tx p with
    | none => none
    | some e => (lineEvents tx (e.onPins p) ms).map (e :: ·)

theorem lineEvents_event {tx : Memory} {p : Pins} {m : Micro} {ms : List Micro} {e : Event}
    (h : m.event tx p = some e) : lineEvents tx p (m :: ms) = (lineEvents tx (e.onPins p) ms).map (e :: ·) := by
  cases m <;> simp_all [lineEvents, Micro.event]

theorem lineEvents_append (tx : Memory) (p : Pins) (ms ns : List Micro) {es : List Event}
    (h : lineEvents tx p ms = some es) :
    lineEvents tx p (ms ++ ns) = (lineEvents tx (pinsAfter p es) ns).map (es ++ ·) := by
  induction ms generalizing p es with
  | nil => cases h; simp [pinsAfter]
  | cons m ms ih =>
    cases he : m.event tx p with
    | some e =>
      rw [lineEvents_event he] at h
      rw [List.cons_append, lineEvents_event he]
      cases hl : lineEvents tx (e.onPins p) ms with
      | none => simp [hl] at h
      | some fs =>
        rw [hl] at h; cases h
        rw [ih _ hl, pinsAfter]
        cases lineEvents tx (pinsAfter (e.onPins p) fs) ns <;> simp
    | none =>
      cases m <;> simp only [Micro.event, reduceCtorEq] at he <;> try (simp [lineEvents, Micro.event] at h; done)
      simp only [lineEvents, List.cons_append] at h ⊢
      exact ih _ h

/-- A straight line of entries performs exactly its events. -/
theorem Path.line {ms rest : List Micro} {es : List Event} {s : State} (hr : s.run = .running)
    (ht : s.todo = ms ++ rest) (he : lineEvents s.opnd.txbuf s.pins ms = some es) :
    ∃ q x, Path s { s with todo := rest, seq := q, idx := x, trace := s.trace ++ es, pins := pinsAfter s.pins es } := by
  induction ms generalizing s es with
  | nil =>
    cases he
    refine ⟨s.seq, s.idx, ?_⟩
    have : ({ s with todo := rest, trace := s.trace ++ [], pins := pinsAfter s.pins [] } : State) = s := by
      cases s; simp_all [pinsAfter]
    rw [this]; exact .refl s
  | cons m ms ih =>
    cases hev : m.event s.opnd.txbuf s.pins with
    | some e =>
      rw [lineEvents_event hev] at he
      cases hl : lineEvents s.opnd.txbuf (e.onPins s.pins) ms with
      | none => simp [hl] at he
      | some fs =>
        rw [hl] at he; cases he
        obtain ⟨q, x, h⟩ := ih (s := ({ s with todo := ms ++ rest }).emit e) (es := fs) hr rfl hl
        refine ⟨q, x, .step (unsettled_of_entry hr ht ?_) (engineStep_event ht hev) ?_⟩
        · cases m <;> simp_all [Micro.event, Micro.polls]
        · simpa [State.emit, pinsAfter] using h
    | none =>
      cases m <;> simp only [Micro.event, reduceCtorEq] at hev <;> try (simp [lineEvents, Micro.event] at he; done)
      rename_i k
      simp only [lineEvents] at he
      obtain ⟨q, x, h⟩ := ih (s := { s with todo := ms ++ rest, idx := k }) (es := es) hr rfl he
      exact ⟨q, x, .step (unsettled_of_entry hr ht rfl) (engineStep_setIdx ht) h⟩

/-- A straight line, with what is seen of it. -/
theorem Run.line {ms rest : List Micro} {es : List Event} {s : State} (hr : s.run = .running)
    (ht : s.todo = ms ++ rest) (he : lineEvents s.opnd.txbuf s.pins ms = some es) :
    ∃ q x, Run s { s with todo := rest, seq := q, idx := x, trace := s.trace ++ es, pins := pinsAfter s.pins es }
      (observe s.pins es) := by
  obtain ⟨q, x, h⟩ := Path.line hr ht he
  exact ⟨q, x, h, es, rfl, rfl, rfl⟩

/-- A straight line whose events and their effect are known. -/
theorem Run.line_to {ms rest : List Micro} {es : List Event} {seen : List Seen} {p : Pins} {s : State}
    (hr : s.run = .running) (ht : s.todo = ms ++ rest) (he : lineEvents s.opnd.txbuf s.pins ms = some es)
    (ho : observe s.pins es = seen) (hp : pinsAfter s.pins es = p) :
    ∃ q x tr, Run s { s with todo := rest, seq := q, idx := x, trace := tr, pins := p } seen := by
  obtain ⟨q, x, h⟩ := Run.line hr ht he
  subst ho hp
  exact ⟨q, x, _, h⟩

/-! ## IDLE, commands, addresses, waits -/

/-- The events of one write of IDLE (R120). -/
def IdleWrite.events : IdleWrite → List Event
  | .ce => [.w .ce true]
  | .we => [.w .we true]
  | .re => [.w .re true]
  | .cle => [.w .cle false]
  | .ale => [.w .ale false]
  | .dqDir => [.dirDQ .out]
  | .dq => [.dqClr (~~~0x00), .dqSet 0x00]
  | .strobeDir => [.dirStrobe .inp]

/-- The events of IDLE (R120). -/
def idleEvents (io : IdleOrder) : List Event := io.flatMap IdleWrite.events

theorem lineEvents_idle (tx : Memory) (p : Pins) (io : IdleOrder) :
    lineEvents tx p (idleSteps io) = some (idleEvents io) := by
  induction io generalizing p with
  | nil => rfl
  | cons a io ih =>
    have h : lineEvents tx p a.steps = some a.events := by cases a <;> rfl
    have e : idleSteps (a :: io) = a.steps ++ idleSteps io := rfl
    rw [e, lineEvents_append tx p _ _ h, ih]
    rfl

/-- The writes of IDLE set different latches, so their order does not matter to the pins (D5). -/
theorem pinsAfter_idleWrite_comm (p : Pins) (a b : IdleWrite) :
    pinsAfter (pinsAfter p a.events) b.events = pinsAfter (pinsAfter p b.events) a.events := by
  cases a <;> cases b <;> rfl

theorem pinsAfter_idleEvents (p : Pins) (io : IdleOrder) :
    pinsAfter p (idleEvents io) = io.foldl (fun q a => pinsAfter q a.events) p := by
  induction io generalizing p with
  | nil => rfl
  | cons a io ih =>
    have e : idleEvents (a :: io) = a.events ++ idleEvents io := rfl
    rw [e, pinsAfter_append, ih]
    rfl

/-- After IDLE the pins are idle, whatever the order of its writes (R120, D5). -/
theorem pinsAfter_idle {io : IdleOrder} (h : io.complete = true) (p : Pins) : pinsAfter p (idleEvents io) = p.toIdle := by
  rw [pinsAfter_idleEvents, (List.isPerm_iff.mp h).foldl_eq' fun a _ b _ q => pinsAfter_idleWrite_comm q a b]
  simp [IdleOrder.listing, IdleWrite.events, pinsAfter, Event.onPins, Pins.write, Pins.clearDq, Pins.setDq, Pins.toIdle]

/-- With WE# high, IDLE completes no cycle, whatever the order of its writes. -/
theorem observe_idle {p : Pins} (h : p.we = true) (io : IdleOrder) : observe p (idleEvents io) = [] := by
  induction io generalizing p with
  | nil => rfl
  | cons a io ih =>
    have e : idleEvents (a :: io) = a.events ++ idleEvents io := rfl
    rw [e, observe_append, ih]
    · cases a <;> simp [IdleWrite.events, observe, Event.seen, cycleOf, h]
    · cases a <;> simp [IdleWrite.events, pinsAfter, Event.onPins, Pins.write, Pins.clearDq, Pins.setDq, h]

theorem IdleOrder.complete_of_lawful {io : IdleOrder} (h : io.lawful = true) : io.complete = true := by
  simp only [IdleOrder.lawful, Bool.and_eq_true] at h; exact h.1.1.1

theorem IdleOrder.precedes_cons {io : IdleOrder} {w a b : IdleWrite} (h : IdleOrder.precedes (w :: io) a b = true) :
    b ≠ w ∧ (a = w ∨ IdleOrder.precedes io a b = true) := by
  unfold IdleOrder.precedes at *; rw [decide_eq_true_eq, List.idxOf_cons, List.idxOf_cons] at h
  by_cases hb : w = b
  · subst hb; simp at h
  · refine ⟨fun e => hb e.symm, ?_⟩
    by_cases ha : w = a
    · exact .inl ha.symm
    · rw [beq_false_of_ne ha, beq_false_of_ne hb] at h; exact .inr (by simpa using h)

/-- IDLE in an order that keeps R79 and R41 is sound from legal pins with WE# high, if what follows it is. -/
theorem tailSound_idleSteps {tx : Memory} {rest : List Micro} {io : IdleOrder} {p : Pins} (hl : p.legal = true)
    (hw : p.we = true) (hre : p.re = true ∨ io.precedes .re .dqDir = true)
    (hdq : p.dqDir = .out ∨ io.precedes .dqDir .dq = true)
    (hrest : tailSound tx (pinsAfter p (idleEvents io)) rest = true) : tailSound tx p (idleSteps io ++ rest) = true := by
  induction io generalizing p with
  | nil => exact hrest
  | cons a io ih =>
    have e : idleEvents (a :: io) = a.events ++ idleEvents io := rfl
    rw [e, pinsAfter_append] at hrest
    replace ih := fun h1 h2 h3 h4 => ih (p := pinsAfter p a.events) h1 h2 h3 h4 hrest
    have hre' := hre.imp_right IdleOrder.precedes_cons
    have hdq' := hdq.imp_right IdleOrder.precedes_cons
    have e : idleSteps (a :: io) ++ rest = a.steps ++ (idleSteps io ++ rest) := by simp [idleSteps]
    rw [e]
    clear hrest hre hdq e
    obtain ⟨ce, we, re, cle, ale, wp, dqs, dqsc, o, d, sd⟩ := p
    cases d <;> cases a <;> simp_all [IdleWrite.steps, IdleWrite.events, driveByte, tailSound, Micro.onPins,
      Micro.event, pinsAfter, Event.onPins, Pins.write, Pins.clearDq, Pins.setDq, Pins.legal]

/-- The closing IDLE of a primitive: sound in every lawful order, if what follows is sound from the idle pins. -/
theorem tailSound_idle {tx : Memory} {rest : List Micro} {io : IdleOrder} {p : Pins} (hio : io.lawful = true)
    (hl : p.legal = true) (hw : p.we = true) (hrest : tailSound tx p.toIdle rest = true) :
    tailSound tx p (idleSteps io ++ rest) = true := by
  have h := hio
  simp only [IdleOrder.lawful, Bool.and_eq_true] at h
  exact tailSound_idleSteps hl hw (.inr h.1.2) (.inr h.2) (by rwa [pinsAfter_idle (IdleOrder.complete_of_lawful hio)])

/-- The events of SEND_COMMAND before its IDLE. -/
def commandEvents (b : Byte) : List Event :=
  [.w .ce false, .w .cle true, .dqClr (~~~b), .dqSet b, .w .we false, .w .we true]

/-- SEND_COMMAND from idle: one command cycle, idle again (R121). -/
theorem Run.command (b : Byte) {rest : List Micro} {s : State} (hr : s.run = .running)
    (hi : s.pins.isIdle = true) (hio : s.idleOrder.complete = true) (ht : s.todo = commandSteps s.idleOrder b ++ rest) :
    ∃ q x tr, Run s { s with todo := rest, seq := q, idx := x, trace := tr } (seenCmd b) := by
  have hp : pinsAfter s.pins (commandEvents b ++ idleEvents s.idleOrder) = s.pins := by
    rw [pinsAfter_append, pinsAfter_idle hio, Pins.idle_eq hi]; rfl
  have ho : observe s.pins (commandEvents b ++ idleEvents s.idleOrder) = seenCmd b := by
    rw [observe_append, Pins.idle_eq hi, observe_idle rfl]
    simp [commandEvents, observe, Event.seen, cycleOf, latchedCycle, Event.onPins, Pins.write, Pins.clearDq, Pins.setDq,
      seenCmd]
  have hl : lineEvents s.opnd.txbuf s.pins (commandSteps s.idleOrder b) =
      some (commandEvents b ++ idleEvents s.idleOrder) := by
    rw [commandSteps, lineEvents_append _ _ _ _ (es := commandEvents b) rfl, lineEvents_idle]; rfl
  simpa using Run.line_to hr ht hl ho hp

/-- The pins inside a run of address cycles. -/
def Pins.addressing (p : Pins) (o : Byte) : Pins := { p.toIdle with ce := false, ale := true, dqOut := o }

/-- The loop of SEND_ADDRESSES. -/
theorem addressCycles_line (tx : Memory) (p : Pins) (bs : List Byte) (k : Nat) (o : Byte) :
    ∃ es o', lineEvents tx (p.addressing o) (addressCycles k bs) = some es ∧
      observe (p.addressing o) es = seenAddr bs ∧ pinsAfter (p.addressing o) es = p.addressing o' := by
  induction bs generalizing k o with
  | nil => exact ⟨[], o, rfl, rfl, rfl⟩
  | cons b bs ih =>
    obtain ⟨es, o', h1, h2, h3⟩ := ih (k + 1) b
    have hpins : pinsAfter (p.addressing o) [.dqClr (~~~b), .dqSet b, .w .we false, .w .we true] = p.addressing b := by
      simp [pinsAfter, Event.onPins, Pins.write, Pins.clearDq, Pins.setDq, Pins.addressing, Pins.toIdle]
    refine ⟨[.dqClr (~~~b), .dqSet b, .w .we false, .w .we true] ++ es, o', ?_, ?_, ?_⟩
    · have : addressCycles k (b :: bs) = [.setIdx k, .dqClr (~~~b), .dqSet b, .w .we false, .w .we true] ++
          addressCycles (k + 1) bs := by simp [addressCycles, driveByte, pulseWe]
      rw [this, lineEvents_append tx _ _ _ (es := [.dqClr (~~~b), .dqSet b, .w .we false, .w .we true]) rfl, hpins, h1]
      rfl
    · rw [observe_append, hpins, h2]
      simp [observe, Event.seen, cycleOf, latchedCycle, Event.onPins, Pins.write, Pins.clearDq, Pins.setDq,
        Pins.addressing, Pins.toIdle, seenAddr]
    · rw [pinsAfter_append, hpins, h3]

/-- SEND_ADDRESSES from idle: one address cycle per byte, idle again (R122). -/
theorem Run.address (bs : List Byte) {rest : List Micro} {s : State} (hr : s.run = .running)
    (hi : s.pins.isIdle = true) (hio : s.idleOrder.complete = true) (ht : s.todo = addressSteps s.idleOrder bs ++ rest) :
    ∃ q x tr, Run s { s with todo := rest, seq := q, idx := x, trace := tr } (seenAddr bs) := by
  obtain ⟨es, o, h1, h2, h3⟩ := addressCycles_line s.opnd.txbuf s.pins bs 0 0x00
  have hstart : pinsAfter s.pins [.w .ce false, .w .ale true] = s.pins.addressing 0x00 := by
    rw [Pins.idle_eq hi]; rfl
  have hl : lineEvents s.opnd.txbuf s.pins (addressSteps s.idleOrder bs) =
      some ([.w .ce false, .w .ale true] ++ es ++ idleEvents s.idleOrder) := by
    rw [addressSteps, lineEvents_append _ _ _ _ (es := [.w .ce false, .w .ale true] ++ es)]
    · rw [lineEvents_idle]; rfl
    · rw [lineEvents_append _ _ _ _ (es := [.w .ce false, .w .ale true]) rfl, hstart, h1]; rfl
  have hp : pinsAfter s.pins ([.w .ce false, .w .ale true] ++ es ++ idleEvents s.idleOrder) = s.pins := by
    rw [pinsAfter_append, pinsAfter_append, hstart, h3, pinsAfter_idle hio, Pins.idle_eq hi]; rfl
  have ho : observe s.pins ([.w .ce false, .w .ale true] ++ es ++ idleEvents s.idleOrder) = seenAddr bs := by
    rw [observe_append, observe_append, pinsAfter_append, hstart, h3, h2, observe_idle rfl]
    simp [observe, Event.seen, cycleOf]
  simpa using Run.line_to hr ht hl ho hp

/-- A wait or a no-op loop: one step that changes nothing but the trace (R265, R267). -/
theorem Run.entry {m : Micro} {rest : List Micro} {e : Event} {s : State} (hr : s.run = .running)
    (ht : s.todo = m :: rest) (he : m.event s.opnd.txbuf s.pins = some e) (hp : e.onPins s.pins = s.pins) :
    ∃ q x tr, Run s { s with todo := rest, seq := q, idx := x, trace := tr } (e.seen s.pins) := by
  have := Run.line_to (s := s) (ms := [m]) (es := [e]) (seen := e.seen s.pins) (p := s.pins) hr ht
    (by rw [lineEvents_event he]; rfl) (by simp [observe]) hp
  simpa using this

theorem Run.delay (p : TimingParam) {rest : List Micro} {s : State} (hr : s.run = .running)
    (ht : s.todo = delay s.timing p ++ rest) :
    ∃ q x tr, Run s { s with todo := rest, seq := q, idx := x, trace := tr } (seenDly s.timing p) :=
  Run.entry (m := .dly p (s.timing.get p)) hr ht rfl rfl

theorem Run.spin (n : Word32) {rest : List Micro} {s : State} (hr : s.run = .running)
    (ht : s.todo = [.spin n] ++ rest) :
    ∃ q x tr, Run s { s with todo := rest, seq := q, idx := x, trace := tr } [.spin n] :=
  Run.entry (m := .spin n) hr ht rfl rfl

/-- ENABLE_ERASE and DISABLE_ERASE (R130, R131). -/
theorem Run.wp (v : Level) {rest : List Micro} {s : State} (hr : s.run = .running)
    (ht : s.todo = [.w .wp v] ++ rest) :
    ∃ q x tr, Run s { s with todo := rest, seq := q, idx := x, trace := tr, pins := { s.pins with wp := v } } [.wp v] :=
  Run.line_to hr ht (es := [.w .wp v]) rfl rfl rfl

/-! ## Data-in bursts -/

/-- The pins inside a data-in burst: the strobes as given. -/
def Pins.dataIn (p : Pins) (o : Byte) (dqs : Level) (sd : Dir) : Pins :=
  { p.toIdle with ce := false, dqOut := o, dqs := dqs, dqsc := !dqs, strobeDir := sd }

theorem dataInAsync_line (tx : Memory) (p : Pins) (n k : Nat) (o : Byte) :
    ∃ es o', lineEvents tx { p.toIdle with ce := false, dqOut := o } (burst dataInAsync k n) = some es ∧
      observe { p.toIdle with ce := false, dqOut := o } es = seenData ((List.range' k n).map (Memory.read tx)) ∧
      pinsAfter { p.toIdle with ce := false, dqOut := o } es = { p.toIdle with ce := false, dqOut := o' } := by
  induction n generalizing k o with
  | zero => exact ⟨[], o, rfl, rfl, rfl⟩
  | succ n ih =>
    obtain ⟨es, o', h1, h2, h3⟩ := ih (k + 1) (Memory.read tx k)
    let b := Memory.read tx k
    have hpins : pinsAfter { p.toIdle with ce := false, dqOut := o }
        [.dqClr (~~~b), .dqSet b, .w .we false, .w .we true] = { p.toIdle with ce := false, dqOut := b } := by
      simp [pinsAfter, Event.onPins, Pins.write, Pins.clearDq, Pins.setDq, Pins.toIdle]
    refine ⟨[.dqClr (~~~b), .dqSet b, .w .we false, .w .we true] ++ es, o', ?_, ?_, ?_⟩
    · have : burst dataInAsync k (n + 1) = [.setIdx k, .txClr k, .txSet k, .w .we false, .w .we true] ++
          burst dataInAsync (k + 1) n := by simp [burst, dataInAsync, driveTx, pulseWe]
      rw [this, lineEvents_append tx _ _ _ (es := [.dqClr (~~~b), .dqSet b, .w .we false, .w .we true]) rfl, hpins, h1]
      rfl
    · rw [observe_append, hpins, h2]
      simp [observe, Event.seen, cycleOf, latchedCycle, Event.onPins, Pins.write, Pins.clearDq, Pins.setDq,
        Pins.toIdle, seenData, List.range'_succ, b]
    · rw [pinsAfter_append, hpins, h3]

theorem dataInToggle_line (tx : Memory) (p : Pins) (n k : Nat) (o : Byte) (v : Level) :
    ∃ es o', lineEvents tx (p.dataIn o v .out) (burst dataInToggle k n) = some es ∧
      observe (p.dataIn o v .out) es = seenData ((List.range' k n).map (Memory.read tx)) ∧
      pinsAfter (p.dataIn o v .out) es = p.dataIn o' (v ^^ decide (n % 2 = 1)) .out := by
  induction n generalizing k o v with
  | zero => exact ⟨[], o, rfl, rfl, by simp [pinsAfter]⟩
  | succ n ih =>
    obtain ⟨es, o', h1, h2, h3⟩ := ih (k + 1) (Memory.read tx k) (!v)
    let b := Memory.read tx k
    have hpins : pinsAfter (p.dataIn o v .out) [.dqClr (~~~b), .dqSet b, .w .dqs (!v), .w .dqsc v] =
        p.dataIn b (!v) .out := by
      simp [pinsAfter, Event.onPins, Pins.write, Pins.clearDq, Pins.setDq, Pins.dataIn, Pins.toIdle]
    refine ⟨[.dqClr (~~~b), .dqSet b, .w .dqs (!v), .w .dqsc v] ++ es, o', ?_, ?_, ?_⟩
    · have : burst dataInToggle k (n + 1) = [.setIdx k, .txClr k, .txSet k, .wInv .dqs, .wInv .dqsc] ++
          burst dataInToggle (k + 1) n := by simp [burst, dataInToggle, driveTx]
      rw [this, lineEvents_append tx _ _ _ (es := [.dqClr (~~~b), .dqSet b, .w .dqs (!v), .w .dqsc v]), hpins, h1]
      · rfl
      · simp [lineEvents, Micro.event, Pins.level, Event.onPins, Pins.write, Pins.clearDq, Pins.setDq, Pins.dataIn, b]
    · rw [observe_append, hpins, h2]
      cases v <;> simp [observe, Event.seen, cycleOf, latchedCycle, Event.onPins, Pins.clearDq, Pins.setDq,
        Pins.dataIn, Pins.toIdle, seenData, List.range'_succ, b]
    · rw [pinsAfter_append, hpins, h3]
      congr 1
      rcases Nat.mod_two_eq_zero_or_one n with h | h <;> cases v <;> simp [h, Nat.add_mod]

/-- SEND_DATA from idle: one data-in cycle per byte of TXBUF, idle again; a TOGGLE burst of even length leaves the strobe
latches at 0 and 1 (R123, R124). -/
theorem Run.dataIn (n : Nat) {rest : List Micro} {s : State} (hr : s.run = .running) (hi : s.pins.isIdle = true)
    (hio : s.idleOrder.complete = true) (hn : s.mode = .toggle → n % 2 = 0) (ht : s.todo = dataInSteps s.idleOrder s.mode n ++ rest) :
    ∃ q x tr, Run s { s with todo := rest, seq := q, idx := x, trace := tr, pins := s.pins.afterDataIn s.mode }
      (seenData (Memory.take s.opnd.txbuf n)) := by
  have htake : Memory.take s.opnd.txbuf n = (List.range' 0 n).map (Memory.read s.opnd.txbuf) := by
    rw [Memory.take, List.range_eq_range']
  rw [htake]
  have hmode : s.mode = .async ∨ s.mode = .toggle := by cases s.mode <;> simp
  rcases hmode with hm | hm
  · have hsteps : dataInSteps s.idleOrder s.mode n = [.w .ce false, .w .cle false, .w .ale false] ++ burst dataInAsync 0 n ++
        idleSteps s.idleOrder := by rw [hm]; rfl
    have hafter : s.pins.afterDataIn s.mode = s.pins := by rw [hm]; rfl
    rw [hafter]
    obtain ⟨es, o, h1, h2, h3⟩ := dataInAsync_line s.opnd.txbuf s.pins n 0 0x00
    have hstart : pinsAfter s.pins [.w .ce false, .w .cle false, .w .ale false] =
        { s.pins.toIdle with ce := false, dqOut := 0x00 } := by
      rw [Pins.idle_eq hi]; rfl
    have hl : lineEvents s.opnd.txbuf s.pins (dataInSteps s.idleOrder s.mode n) =
        some ([.w .ce false, .w .cle false, .w .ale false] ++ es ++ idleEvents s.idleOrder) := by
      rw [hsteps,
        lineEvents_append _ _ _ _ (es := [.w .ce false, .w .cle false, .w .ale false] ++ es)]
      · rw [lineEvents_idle]; rfl
      · rw [lineEvents_append _ _ _ _ (es := [.w .ce false, .w .cle false, .w .ale false]) rfl, hstart, h1]; rfl
    have hp : pinsAfter s.pins ([.w .ce false, .w .cle false, .w .ale false] ++ es ++ idleEvents s.idleOrder) = s.pins := by
      rw [pinsAfter_append, pinsAfter_append, hstart, h3, pinsAfter_idle hio, Pins.idle_eq hi]; rfl
    have ho : observe s.pins ([.w .ce false, .w .cle false, .w .ale false] ++ es ++ idleEvents s.idleOrder) =
        seenData ((List.range' 0 n).map (Memory.read s.opnd.txbuf)) := by
      rw [observe_append, observe_append, pinsAfter_append, hstart, h3, h2, observe_idle rfl]
      simp [observe, Event.seen, cycleOf]
    exact Run.line_to hr ht hl ho hp
  · have hsteps : dataInSteps s.idleOrder s.mode n = [.w .ce false, .w .cle false, .w .ale false] ++ ([.w .dqs false,
        .w .dqsc true, .dirStrobe .out] ++ burst dataInToggle 0 n) ++ idleSteps s.idleOrder := by rw [hm]; rfl
    obtain ⟨es, o, h1, h2, h3⟩ := dataInToggle_line s.opnd.txbuf s.pins n 0 0x00 false
    rw [hn hm] at h3
    let start : List Event :=
      [.w .ce false, .w .cle false, .w .ale false, .w .dqs false, .w .dqsc true, .dirStrobe .out]
    have hstart : pinsAfter s.pins start = s.pins.dataIn 0x00 false .out := by
      rw [Pins.idle_eq hi]; rfl
    have hl : lineEvents s.opnd.txbuf s.pins (dataInSteps s.idleOrder s.mode n) =
        some (start ++ es ++ idleEvents s.idleOrder) := by
      rw [hsteps, lineEvents_append _ _ _ _ (es := start ++ es)]
      · rw [lineEvents_idle]; rfl
      · rw [← List.append_assoc, lineEvents_append _ _ _ _ (es := start) rfl, hstart, h1]; rfl
    have hp : pinsAfter s.pins (start ++ es ++ idleEvents s.idleOrder) = s.pins.afterDataIn s.mode := by
      rw [hm, pinsAfter_append, pinsAfter_append, hstart, h3, pinsAfter_idle hio, Pins.idle_eq hi]; rfl
    have ho : observe s.pins (start ++ es ++ idleEvents s.idleOrder) =
        seenData ((List.range' 0 n).map (Memory.read s.opnd.txbuf)) := by
      rw [observe_append, observe_append, pinsAfter_append, hstart, h3, h2, observe_idle rfl, Pins.idle_eq hi]
      simp [observe, Event.seen, cycleOf, start, Event.onPins, Pins.write]
    exact Run.line_to hr ht hl ho hp

/-! ## Ready waits and data-out bursts -/

/-- One step of a run, with what is seen of it. -/
theorem Run.one {s t : State} {e : Event} {seen : List Seen} (hs : s.settled = false) (he : engineStep s = .next t)
    (htr : t.trace = s.trace ++ [e]) (hp : t.pins = e.onPins s.pins) (hseen : e.seen s.pins = seen) : Run s t seen :=
  ⟨.step hs he (.refl t), [e], htr, by simp [observe, hseen], by simp [pinsAfter, hp]⟩

/-- One step of a run that performs no event. -/
theorem Run.silent {s t : State} (hs : s.settled = false) (he : engineStep s = .next t) (htr : t.trace = s.trace)
    (hp : t.pins = s.pins) : Run s t [] :=
  ⟨.step hs he (.refl t), [], by simp [htr], rfl, by simp [pinsAfter, hp]⟩

/-- An R/B# sample of the wanted level leaves its loop. -/
theorem Run.leave (k : Poll) {rest : List Micro} {more : List Level} {s : State} (hr : s.run = .running)
    (ht : s.todo = .pollRb k :: rest) (he : s.env.rb = k.want :: more) :
    ∃ q tr, Run s { s with todo := rest, seq := q, trace := tr,
                           env := { s.env with rb := more, rbN := s.env.rbN + 1 } } [.rb k.want] := by
  have hn : s.nextRb = k.want := State.nextRb_cons he
  rcases pollSample_cases k { s with todo := rest } with ⟨-, q, hq⟩ | ⟨hne, -⟩ | ⟨hne, -⟩
  · have hstep := engineStep_pollRb ht
    rw [hq] at hstep
    refine ⟨q, s.trace ++ [.rb k.want], ?_⟩
    have hrun := Run.one (e := .rb k.want) (seen := [.rb k.want]) (unsettled_of_script hr he) hstep
      (by rw [← hn]; rfl) rfl rfl
    simpa [State.sampleRb, State.emit, he, Event.onPins, State.nextRb] using hrun
  · exact absurd hn hne
  · exact absurd hn hne

/-- WAIT_READY without a timeout: samples until the first 1 (R128). -/
theorem Run.ready (k : Nat) {rest : List Micro} {more : List Level} {s : State} (hr : s.run = .running)
    (ht : s.todo = waitReadySteps ++ rest) (he : s.env.rb = readyAfter k ++ more) :
    ∃ q tr, Run s { s with todo := rest, seq := q, trace := tr,
                           env := { s.env with rb := more, rbN := s.env.rbN + (k + 1) } } (seenReady k) := by
  induction k generalizing s with
  | zero => exact Run.leave .untilReady hr ht he
  | succ k ih =>
    have ht' : s.todo = .pollRb .untilReady :: rest := ht
    have he' : s.env.rb = false :: (readyAfter k ++ more) := by
      rw [he, readyAfter, List.replicate_succ]; rfl
    have hn : s.nextRb = false := State.nextRb_cons he'
    have hstep := engineStep_pollRb ht'
    rcases pollSample_cases .untilReady { s with todo := rest } with ⟨h, -⟩ | ⟨-, -, hq⟩ | ⟨-, hb, -⟩
    · exact absurd (hn.symm.trans h) (by simp [Poll.want])
    · rw [hq] at hstep
      have h1 := Run.one (e := .rb false) (seen := [.rb false]) (unsettled_of_script hr he') hstep
        (by rw [← hn]; rfl) rfl rfl
      let u : State := { State.sampleRb { s with todo := rest } with todo := waitReadySteps ++ rest, seq := s.seq }
      obtain ⟨q, tr, h2⟩ := ih (s := u) hr rfl (by simp [u, State.sampleRb, he'])
      refine ⟨q, tr, ?_⟩
      have e1 : seenReady (k + 1) = [.rb false] ++ seenReady k := by simp [seenReady, List.replicate_succ]
      have e2 : s.env.rbN + (k + 1 + 1) = s.env.rbN + 1 + (k + 1) := by omega
      rw [e1, e2]
      exact h1.trans h2
    · exact absurd rfl hb

/-- The first answer to a DQ sample is the next byte, the others are those after it. -/
theorem dqAnswers_succ (s : State) (n : Nat) : dqAnswers s (n + 1) = s.nextDq :: dqAnswers s.sampleDq n := by
  unfold dqAnswers
  rw [List.range_succ_eq_map, List.map_cons, List.map_map]
  congr 1
  · unfold State.nextDq
    cases s.env.dq <;> simp
  · apply List.map_congr_left
    intro k _
    have e : s.env.dqN + (k + 1) = s.env.dqN + 1 + k := by omega
    simp only [Function.comp, State.sampleDq_env, Nat.succ_eq_add_one, e]
    cases s.env.dq <;> simp

@[simp] theorem dqAnswers_length (s : State) (n : Nat) : (dqAnswers s n).length = n := by simp [dqAnswers]

/-- The answers depend on the scripted bytes and their count alone. -/
theorem dqAnswers_congr {s t : State} (h1 : t.env.dq = s.env.dq) (h2 : t.env.dqN = s.env.dqN) (n : Nat) :
    dqAnswers t n = dqAnswers s n := by
  simp [dqAnswers, h1, h2]

/-- The answers after the first `m`. -/
theorem dqAnswers_add (s : State) (m n : Nat) :
    dqAnswers s (m + n) = dqAnswers s m ++
      dqAnswers { s with env := { s.env with dq := s.env.dq.drop m, dqN := s.env.dqN + m } } n := by
  unfold dqAnswers
  rw [List.range_add, List.map_append, List.map_map]
  congr 1
  apply List.map_congr_left
  intro k _
  simp [Nat.add_assoc]

/-- The state after `n` DQ samples: the bytes appended to RXBUF, `RXLEN` and the counts further. -/
def State.received (s : State) (n : Nat) : State :=
  { s with
    env := { s.env with dq := s.env.dq.drop n, dqN := s.env.dqN + n },
    rxbuf := Memory.writeList s.rxbuf s.rxlen.toNat (dqAnswers s n), rxlen := s.rxlen + BitVec.ofNat 32 n }

@[simp] theorem State.received_zero (s : State) : s.received 0 = s := by
  simp [State.received, dqAnswers, Memory.writeList]

/-- The pins inside a data-out burst. -/
def Pins.dataOut (p : Pins) (re : Level) : Pins := { p.toIdle with ce := false, re := re, dqDir := .inp }

/-- What one byte of a data-out burst does: at most one RE# edge before and one after its sample. -/
theorem Run.dataOutByte {pre post rest : List Micro} {s : State} {p q : Pins} {es fs : List Event}
    (hr : s.run = .running) (ht : s.todo = pre ++ .sampleDQ :: post ++ rest)
    (hpre : lineEvents s.opnd.txbuf s.pins pre = some es) (hp : pinsAfter s.pins es = p) (hes : observe s.pins es = [])
    (hdir : p.dqDir = .inp) (hseen : ∀ b, cycleOf p (.dq b) = some (.dataOut b))
    (hpost : lineEvents s.opnd.txbuf p post = some fs) (hq : pinsAfter p fs = q) (hfs : observe p fs = []) :
    ∃ n x tr, Run s { s.sampleDq with todo := rest, seq := n, idx := x, trace := tr, pins := q }
      [.cycle (.dataOut s.nextDq)] := by
  rw [List.append_assoc] at ht
  obtain ⟨n1, x1, tr1, h1⟩ := Run.line_to hr ht hpre hes hp
  let u : State := { s with todo := .sampleDQ :: post ++ rest, seq := n1, idx := x1, trace := tr1, pins := p }
  have h2 := Run.one (s := u) (e := .dq s.nextDq) (seen := [.cycle (.dataOut s.nextDq)])
    (unsettled_of_entry (m := .sampleDQ) (rest := post ++ rest) hr rfl rfl)
    (engineStep_sampleDQ (rest := post ++ rest) rfl hdir) rfl rfl (by simp [u, Event.seen, hseen])
  obtain ⟨n3, x3, tr3, h3⟩ := Run.line_to (s := State.sampleDq { u with todo := post ++ rest }) (ms := post)
    (rest := rest) hr rfl hpost hfs hq
  refine ⟨n3, x3, tr3, ?_⟩
  have := (h1.trans h2).trans h3
  simpa [u, State.sampleDq, State.emit, State.nextDq] using this

theorem State.received_succ (s : State) (n : Nat) (h : s.rxlen.toNat + 1 < 2 ^ 32) :
    s.received (n + 1) =
      { (s.sampleDq).received n with pins := s.pins, trace := s.trace, seq := s.seq } := by
  have hlen : (s.rxlen + 1).toNat = s.rxlen.toNat + 1 := by
    rw [BitVec.toNat_add]; exact Nat.mod_eq_of_lt (by simpa using h)
  have hw : s.rxlen + BitVec.ofNat 32 (n + 1) = s.rxlen + 1 + BitVec.ofNat 32 n := by
    rw [BitVec.add_assoc, Nat.add_comm n 1, BitVec.ofNat_add]; rfl
  simp only [State.received, dqAnswers_succ, Memory.writeList, State.sampleDq_rxbuf, State.sampleDq_rxlen,
    State.sampleDq_env, hlen, hw, State.sampleDq_run, State.sampleDq_idx, State.sampleDq_todo, State.sampleDq_tStart,
    State.sampleDq_busyStart, State.sampleDq_opnd, State.sampleDq_res, State.sampleDq_record, State.sampleDq_fetched,
    State.sampleDq_mode, State.sampleDq_timing, State.sampleDq_maxBurst, State.sampleDq_idleOrder,
    State.sampleDq_clkLast, State.sampleDq_host, State.sampleDq_slice]
  congr 2
  · cases s.env.dq <;> simp
  · omega

theorem Run.bytesAsync (n k : Nat) {rest : List Micro} {s : State} {p : Pins} (hr : s.run = .running)
    (hp : s.pins = p.dataOut true) (ht : s.todo = burst dataOutAsync k n ++ rest) (hlen : s.rxlen.toNat + n < 2 ^ 32) :
    ∃ q x tr, Run s { s.received n with todo := rest, seq := q, idx := x, trace := tr }
      ((dqAnswers s n).map (fun b => .cycle (.dataOut b))) := by
  induction n generalizing s k with
  | zero =>
    refine ⟨s.seq, s.idx, s.trace, ?_⟩
    have : ({ s with todo := rest } : State) = s := by cases s; simp_all [burst]
    rw [State.received_zero, this]; exact Run.refl s
  | succ n ih =>
    have ht' : s.todo = [.setIdx k, .w .re false] ++ .sampleDQ :: [.w .re true] ++ (burst dataOutAsync (k + 1) n ++ rest) := by
      rw [ht]; simp [burst, dataOutAsync]
    obtain ⟨q1, x1, tr1, h1⟩ := Run.dataOutByte (p := p.dataOut false) (q := p.dataOut true) (es := [.w .re false])
      (fs := [.w .re true]) hr ht' rfl (by rw [hp]; rfl) (by simp [observe, Event.seen, cycleOf]) rfl
      (by intro b; rfl) rfl rfl (by simp [observe, Event.seen, cycleOf])
    let u : State := { s.sampleDq with
      todo := burst dataOutAsync (k + 1) n ++ rest, seq := q1, idx := x1, trace := tr1, pins := p.dataOut true }
    obtain ⟨q2, x2, tr2, h2⟩ := ih (k + 1) (s := u) hr rfl rfl (by
        simp only [u, State.sampleDq_rxlen]; rw [BitVec.toNat_add]; simp; omega)
    refine ⟨q2, x2, tr2, ?_⟩
    rw [dqAnswers_succ, State.received_succ s n (by omega), hp]
    exact h1.trans h2

theorem Run.bytesToggle (n k : Nat) {rest : List Micro} {s : State} {p : Pins} (hr : s.run = .running)
    (hp : s.pins = p.dataOut (decide (k % 2 = 0))) (ht : s.todo = burst dataOutToggle k n ++ rest)
    (hlen : s.rxlen.toNat + n < 2 ^ 32) :
    ∃ q x tr, Run s { s.received n with todo := rest, seq := q, idx := x, trace := tr,
                                        pins := p.dataOut (decide ((k + n) % 2 = 0)) }
      ((dqAnswers s n).map (fun b => .cycle (.dataOut b))) := by
  induction n generalizing s k with
  | zero =>
    refine ⟨s.seq, s.idx, s.trace, ?_⟩
    have : ({ s with todo := rest, pins := p.dataOut (decide ((k + 0) % 2 = 0)) } : State) = s := by
      cases s; simp_all [burst]
    rw [State.received_zero, this]; exact Run.refl s
  | succ n ih =>
    have ht' : s.todo = [.setIdx k, .w .re (decide (k % 2 = 1))] ++ .sampleDQ :: [] ++
        (burst dataOutToggle (k + 1) n ++ rest) := by
      rw [ht]; simp [burst, dataOutToggle]
    have hk : decide ((k + 1) % 2 = 0) = decide (k % 2 = 1) := by
      rcases Nat.mod_two_eq_zero_or_one k with h | h <;> simp [h, Nat.add_mod]
    obtain ⟨q1, x1, tr1, h1⟩ := Run.dataOutByte (p := p.dataOut (decide ((k + 1) % 2 = 0)))
      (q := p.dataOut (decide ((k + 1) % 2 = 0))) (es := [.w .re (decide (k % 2 = 1))])
      (fs := []) hr ht' rfl (by rw [hp, hk]; rfl) (by simp [observe, Event.seen, cycleOf]) rfl
      (by intro b; rfl) rfl rfl rfl
    let u : State := { s.sampleDq with
      todo := burst dataOutToggle (k + 1) n ++ rest, seq := q1, idx := x1, trace := tr1,
      pins := p.dataOut (decide ((k + 1) % 2 = 0)) }
    obtain ⟨q2, x2, tr2, h2⟩ := ih (k + 1) (s := u) hr rfl rfl (by
        simp only [u, State.sampleDq_rxlen]; rw [BitVec.toNat_add]; simp; omega)
    refine ⟨q2, x2, tr2, ?_⟩
    rw [dqAnswers_succ, State.received_succ s n (by omega), show k + (n + 1) = k + 1 + n by omega]
    exact h1.trans h2

/-- The burst of READ_DATA in a mode. -/
def dataOutBytes (mode : Mode) (n : Nat) : List Micro :=
  match mode with
  | .async => burst dataOutAsync 0 n
  | .toggle => burst dataOutToggle 0 n

theorem dataOutSteps_eq (io : IdleOrder) (timing : Timing) (mode : Mode) (n : Nat) :
    dataOutSteps io timing mode n = [.dirDQ .inp] ++ (waitReadySteps ++ ([.dly .tRR timing.tRR, .w .ce false] ++
      (dataOutBytes mode n ++ (idleSteps io ++ [.dly .tRHW timing.tRHW])))) := by
  cases mode <;> simp [dataOutSteps, waitReadySteps, dataOutBytes]

/-- READ_DATA from idle: the ready wait, tRR, one data-out cycle per byte, idle again, tRHW (R125 to R127). -/
theorem Run.dataOut (n k : Nat) {rest : List Micro} {more : List Level} {s : State} (hr : s.run = .running)
    (hi : s.pins.isIdle = true) (hio : s.idleOrder.complete = true) (ht : s.todo = dataOutSteps s.idleOrder s.timing s.mode n ++ rest)
    (he : s.env.rb = readyAfter k ++ more) (hlen : s.rxlen.toNat + n < 2 ^ 32) :
    ∃ q x tr, Run s
      { s.received n with
        todo := rest, seq := q, idx := x, trace := tr,
        env := { (s.received n).env with rb := more, rbN := s.env.rbN + (k + 1) } }
      (seenRead s.timing k (dqAnswers s n)) := by
  let tail := idleSteps s.idleOrder ++ [.dly .tRHW s.timing.tRHW] ++ rest
  let bytes := dataOutBytes s.mode n
  have ht0 : s.todo = [.dirDQ .inp] ++ (waitReadySteps ++ ([.dly .tRR s.timing.tRR, .w .ce false] ++ (bytes ++ tail))) := by
    rw [ht, dataOutSteps_eq]; simp [tail, bytes]
  obtain ⟨q1, x1, tr1, h1⟩ := Run.line_to (es := [.dirDQ .inp]) (seen := []) hr ht0 rfl
    (by simp [observe, Event.seen, cycleOf]) rfl
  obtain ⟨q2, tr2, h2⟩ := Run.ready k (rest := [.dly .tRR s.timing.tRR, .w .ce false] ++ (bytes ++ tail)) (more := more)
    (s := { s with
      todo := waitReadySteps ++ ([.dly .tRR s.timing.tRR, .w .ce false] ++ (bytes ++ tail)), seq := q1, idx := x1,
      trace := tr1, pins := pinsAfter s.pins [.dirDQ .inp] }) hr rfl he
  obtain ⟨q3, x3, tr3, h3⟩ := Run.line_to (rest := bytes ++ tail) (es := [.dly .tRR s.timing.tRR, .w .ce false])
    (ms := [.dly .tRR s.timing.tRR, .w .ce false]) (seen := seenDly s.timing .tRR) (p := s.pins.dataOut true)
    (s := { s with
      todo := [.dly .tRR s.timing.tRR, .w .ce false] ++ (bytes ++ tail), seq := q2, idx := x1, trace := tr2,
      pins := pinsAfter s.pins [.dirDQ .inp],
      env := { s.env with rb := more, rbN := s.env.rbN + (k + 1) } }) hr rfl rfl
    (by simp [observe, Event.seen, cycleOf, seenDly, Timing.get]) (by rw [Pins.idle_eq hi]; rfl)
  let u : State := { s with todo := bytes ++ tail, seq := q3, idx := x3, trace := tr3, pins := s.pins.dataOut true,
                            env := { s.env with rb := more, rbN := s.env.rbN + (k + 1) } }
  have h4 : ∃ q x tr re, Run u { u.received n with todo := tail, seq := q, idx := x, trace := tr, pins := s.pins.dataOut re }
      ((dqAnswers s n).map (fun b => .cycle (.dataOut b))) := by
    have hmode : s.mode = .async ∨ s.mode = .toggle := by cases s.mode <;> simp
    rcases hmode with hm | hm
    · obtain ⟨q, x, tr, h⟩ := Run.bytesAsync n 0 (rest := tail) (s := u) (p := s.pins) hr rfl
        (by simp [u, bytes, hm, dataOutBytes]) hlen
      exact ⟨q, x, tr, true, h⟩
    · obtain ⟨q, x, tr, h⟩ := Run.bytesToggle n 0 (rest := tail) (s := u) (p := s.pins) hr rfl
        (by simp [u, bytes, hm, dataOutBytes]) hlen
      exact ⟨q, x, tr, _, h⟩
  obtain ⟨q4, x4, tr4, re, h4⟩ := h4
  obtain ⟨q5, x5, tr5, h5⟩ := Run.line_to (ms := idleSteps s.idleOrder ++ [.dly .tRHW s.timing.tRHW]) (rest := rest)
    (es := idleEvents s.idleOrder ++ [.dly .tRHW s.timing.tRHW]) (seen := seenDly s.timing .tRHW) (p := s.pins)
    (s := { u.received n with todo := tail, seq := q4, idx := x4, trace := tr4, pins := s.pins.dataOut re }) hr rfl
    (by rw [lineEvents_append _ _ _ _ (lineEvents_idle _ _ _)]; rfl) (by rw [observe_append, observe_idle rfl]; rfl)
    (by rw [pinsAfter_append, pinsAfter_idle hio, Pins.idle_eq hi]; rfl)
  refine ⟨q5, x5, tr5, ?_⟩
  have := (((h1.trans h2).trans h3).trans h4).trans h5
  have hseen : seenRead s.timing k (dqAnswers s n) = ((([] ++ seenReady k) ++ seenDly s.timing .tRR) ++
    (dqAnswers s n).map (fun b => Seen.cycle (.dataOut b))) ++ seenDly s.timing .tRHW := by simp [seenRead]
  rw [hseen]
  exact this

/-! ## Bounded waits -/

/-- The value of the last of these clock reads. -/
def lastRead : Word64 → List Word64 → Word64
  | last, [] => last
  | _, t :: ts => lastRead t ts

@[simp] theorem lastRead_nil (t : Word64) : lastRead t [] = t := rfl

@[simp] theorem lastRead_cons (last t : Word64) (ts : List Word64) : lastRead last (t :: ts) = lastRead t ts := rfl

theorem lastRead_append (last : Word64) (ts us : List Word64) : lastRead last (ts ++ us) = lastRead (lastRead last ts) us := by
  induction ts generalizing last with
  | nil => rfl
  | cons t ts ih => simp [ih]

theorem risingFrom_append (last : Word64) (ts us : List Word64) :
    risingFrom last (ts ++ us) = (risingFrom last ts && risingFrom (lastRead last ts) us) := by
  induction ts generalizing last with
  | nil => simp [risingFrom]
  | cons t ts ih => simp [risingFrom, ih, Bool.and_assoc]

/-- A clock read that starts a wait or records a time. -/
theorem Run.readClk {t : Word64} {ts : List Word64} {s u : State} {m : Micro} {rest : List Micro} (hr : s.run = .running)
    (ht : s.todo = m :: rest) (hm : m.polls = false) (he : s.env.clk = t :: ts) (hle : s.clkLast.toNat ≤ t.toNat)
    (hstep : engineStep s = .next u) (htr : u.trace = s.trace ++ [.clk s.nextClk]) (hp : u.pins = s.pins) :
    Run s u [.clk t] := by
  have hn := State.nextClk_cons he hle
  refine Run.one (e := .clk t) (unsettled_of_entry hr ht hm) hstep (by rw [htr, hn]) (by rw [hp]; rfl) rfl

theorem Run.clkStart {t : Word64} {ts : List Word64} {rest : List Micro} {s : State} (hr : s.run = .running)
    (ht : s.todo = .clkStart :: rest) (he : s.env.clk = t :: ts) (hle : s.clkLast.toNat ≤ t.toNat) :
    ∃ q tr, Run s
      { s with
        todo := rest, seq := q, trace := tr, tStart := t, clkLast := t,
        env := { s.env with clk := ts, clkN := s.env.clkN + 1 } } [.clk t] := by
  have hn := State.nextClk_cons he hle
  have h := Run.readClk hr ht rfl he hle (engineStep_clkStart ht) rfl rfl
  have hn' : State.nextClk { s with todo := rest } = t := hn
  refine ⟨s.seq + 1, s.trace ++ [.clk t], ?_⟩
  simpa [State.readClk, State.emit, Event.onPins, hn, hn', he] using h

theorem Run.clkBusyStart {t : Word64} {ts : List Word64} {rest : List Micro} {s : State} (hr : s.run = .running)
    (ht : s.todo = .clkBusyStart :: rest) (he : s.env.clk = t :: ts) (hle : s.clkLast.toNat ≤ t.toNat) :
    ∃ q tr, Run s
      { s with
        todo := rest, seq := q, trace := tr, busyStart := t, clkLast := t,
        env := { s.env with clk := ts, clkN := s.env.clkN + 1 } } [.clk t] := by
  have hn := State.nextClk_cons he hle
  have h := Run.readClk hr ht rfl he hle (engineStep_clkBusyStart ht) rfl rfl
  have hn' : State.nextClk { s with todo := rest } = t := hn
  refine ⟨s.seq + 1, s.trace ++ [.clk t], ?_⟩
  simpa [State.readClk, State.emit, Event.onPins, hn, hn', he] using h

theorem Run.clkBusyEnd {t : Word64} {ts : List Word64} {rest : List Micro} {s : State} (hr : s.run = .running)
    (ht : s.todo = .clkBusyEnd :: rest) (he : s.env.clk = t :: ts) (hle : s.clkLast.toNat ≤ t.toNat) :
    ∃ q tr, Run s
      { s with
        todo := rest, seq := q, trace := tr, clkLast := t, record := { s.record with durationNs := t - s.busyStart },
        env := { s.env with clk := ts, clkN := s.env.clkN + 1 } } [.clk t] := by
  have hn := State.nextClk_cons he hle
  have h := Run.readClk hr ht rfl he hle (engineStep_clkBusyEnd ht) rfl rfl
  have hn' : State.nextClk { s with todo := rest } = t := hn
  refine ⟨s.seq + 1, s.trace ++ [.clk t], ?_⟩
  simpa [State.readClk, State.emit, Event.onPins, hn, hn', he] using h

/-- The two steps of a bounded loop that samples the unwanted level: the sample, then the clock read. -/
theorem Run.sampleThenClock (k : Poll) {limit t : Word64} {rest : List Micro} {more : List Level} {ts : List Word64}
    {s : State} (hb : k.bound = some limit) (hr : s.run = .running) (ht : s.todo = .pollRb k :: rest)
    (he : s.env.rb = (!k.want) :: more) (hc : s.env.clk = t :: ts) (hle : s.clkLast.toNat ≤ t.toNat) :
    ∃ q tr, ∃ u : State,
      u = { s with
        todo := rest, seq := q, trace := tr, clkLast := t,
        env := { s.env with rb := more, rbN := s.env.rbN + 1, clk := ts, clkN := s.env.clkN + 1 } } ∧
      (k.expired t s = true → Run s (k.onExpiry u) [.rb (!k.want), .clk t]) ∧
      (k.expired t s = false →
        ∃ q', Run s { u with todo := .pollRb k :: rest, seq := q' } [.rb (!k.want), .clk t]) := by
  have hn : s.nextRb = !k.want := State.nextRb_cons he
  have hne : s.nextRb ≠ k.want := by rw [hn]; simp
  let a : State := { State.sampleRb { s with todo := rest } with todo := .pollClk k :: rest }
  have hsamp : engineStep s = .next a := by
    have hstep := engineStep_pollRb ht
    rcases pollSample_cases k { s with todo := rest } with ⟨h, -⟩ | ⟨-, h, -⟩ | ⟨-, -, hq⟩
    · exact absurd h hne
    · rw [hb] at h; cases h
    · rw [hq] at hstep; exact hstep
  have h1 : Run s a [.rb (!k.want)] :=
    Run.one (e := .rb (!k.want)) (unsettled_of_script hr he) hsamp (by rw [← hn]; rfl) rfl rfl
  have hnc : a.nextClk = t := State.nextClk_cons (s := a) hc hle
  have hclk : engineStep a = .next (pollClock k { a with todo := rest }) := engineStep_pollClk rfl
  have hexp : k.expired t s = k.expired (State.nextClk { a with todo := rest }) { a with todo := rest } := by
    have : State.nextClk { a with todo := rest } = t := hnc
    rw [this]; cases k <;> rfl
  have hread : State.readClk { a with todo := rest } = { s with
      todo := rest, seq := a.seq + 1, trace := a.trace ++ [.clk t], clkLast := t,
      env := { s.env with rb := more, rbN := s.env.rbN + 1, clk := ts, clkN := s.env.clkN + 1 } } := by
    have : State.nextClk { a with todo := rest } = t := hnc
    unfold State.readClk; rw [this]; simp [State.emit, Event.onPins, a, State.sampleRb, he, hc]
  refine ⟨a.seq + 1, a.trace ++ [.clk t], _, rfl, ?_, ?_⟩
  · intro hx
    rw [hexp] at hx
    rcases pollClock_cases k { a with todo := rest } with ⟨-, hq⟩ | ⟨hf, -⟩
    · rw [hq, hread] at hclk
      have h2 := Run.one (e := .clk t) (seen := [.clk t]) (unsettled_of_clk (s := a) hr rfl) hclk
        (by cases k <;> rfl) (by cases k <;> rfl) rfl
      exact h1.trans h2
    · rw [hx] at hf; cases hf
  · intro hx
    rw [hexp] at hx
    rcases pollClock_cases k { a with todo := rest } with ⟨hf, -⟩ | ⟨-, hq⟩
    · rw [hx] at hf; cases hf
    · rw [hq, hread] at hclk
      have h2 := Run.one (e := .clk t) (seen := [.clk t]) (unsettled_of_clk (s := a) hr rfl) hclk rfl rfl rfl
      exact ⟨_, h1.trans h2⟩

theorem Poll.expired_iff {k : Poll} {limit t : Word64} {s : State} (hb : k.bound = some limit) :
    k.expired t s = decide (limit.toNat ≤ t.toNat - (k.origin s).toNat) := by
  simp [Poll.expired, hb]

/-- A bounded loop going round while the level is not the wanted one and its bound is not reached. -/
theorem Run.rounds (k : Poll) {limit origin : Word64} (hb : k.bound = some limit) (ts : List Word64) {rest : List Micro}
    {more : List Level} {later : List Word64} {s : State} (hr : s.run = .running) (ht : s.todo = .pollRb k :: rest)
    (ho : k.origin s = origin) (he : s.env.rb = List.replicate ts.length (!k.want) ++ more)
    (hc : s.env.clk = ts ++ later) (hrise : risingFrom s.clkLast ts = true) (hin : allWithin origin limit ts = true) :
    ∃ q tr, Run s
      { s with
        todo := .pollRb k :: rest, seq := q, trace := tr, clkLast := lastRead s.clkLast ts,
        env := { s.env with rb := more, rbN := s.env.rbN + ts.length, clk := later, clkN := s.env.clkN + ts.length } }
      (seenRounds (!k.want) ts) := by
  induction ts generalizing s with
  | nil =>
    refine ⟨s.seq, s.trace, ?_⟩
    have e1 : s.env.rb = more := by simpa using he
    have e2 : s.env.clk = later := by simpa using hc
    subst e1 e2
    have e : ({ s with todo := .pollRb k :: rest } : State) = s := by cases s; simp_all
    have h := Run.refl s
    rw [← e] at h
    rw [← e]
    exact h
  | cons t ts ih =>
    simp only [risingFrom, Bool.and_eq_true, decide_eq_true_eq] at hrise
    simp only [allWithin, List.all_cons, Bool.and_eq_true, decide_eq_true_eq] at hin
    obtain ⟨q1, tr1, u, hu, -, hgo⟩ := Run.sampleThenClock k (limit := limit) (rest := rest) hb hr ht
      (more := List.replicate ts.length (!k.want) ++ more) (by rw [he]; rfl) hc hrise.1
    have hx : k.expired t s = false := by
      rw [Poll.expired_iff hb, ho]; simpa using hin.1
    obtain ⟨q1', h1⟩ := hgo hx
    obtain ⟨q2, tr2, h2⟩ := ih (s := { u with todo := .pollRb k :: rest, seq := q1' }) (by rw [hu]; exact hr) rfl
      (by rw [hu, ← ho]; cases k <;> rfl) (by rw [hu]) (by rw [hu]; rfl) (by rw [hu]; exact hrise.2) hin.2
    refine ⟨q2, tr2, ?_⟩
    have h := h1.trans h2
    subst hu
    have e1 : s.env.rbN + (t :: ts).length = s.env.rbN + 1 + ts.length := by simp; omega
    have e2 : s.env.clkN + (t :: ts).length = s.env.clkN + 1 + ts.length := by simp; omega
    rw [e1, e2, lastRead_cons]
    exact h

/-- The last round of a bounded loop: its bound is reached. -/
theorem Run.expire (k : Poll) {limit t : Word64} (hb : k.bound = some limit) {rest : List Micro} {more : List Level}
    {later : List Word64} {s : State} (hr : s.run = .running) (ht : s.todo = .pollRb k :: rest)
    (he : s.env.rb = (!k.want) :: more) (hc : s.env.clk = t :: later) (hle : s.clkLast.toNat ≤ t.toNat)
    (hx : limit.toNat ≤ t.toNat - (k.origin s).toNat) :
    ∃ q tr, Run s
      (k.onExpiry { s with
        todo := rest, seq := q, trace := tr, clkLast := t,
        env := { s.env with rb := more, rbN := s.env.rbN + 1, clk := later, clkN := s.env.clkN + 1 } })
      [.rb (!k.want), .clk t] := by
  obtain ⟨q, tr, u, hu, hgo, -⟩ := Run.sampleThenClock k hb hr ht he hc hle
  subst hu
  exact ⟨q, tr, hgo (by rw [Poll.expired_iff hb]; simpa using hx)⟩

/-- A bounded wait for R/B# = 1 that finds the device ready inside its bound (R128, R202). -/
theorem Run.boundedReady (k : Poll) {limit t0 : Word64} (hb : k.bound = some limit) (hw : k.want = true)
    (ho : ∀ s, k.origin s = s.tStart) (ts : List Word64) {rest : List Micro} {more : List Level} {later : List Word64}
    {s : State} (hr : s.run = .running) (ht : s.todo = boundedWaitSteps k ++ rest)
    (he : s.env.rb = List.replicate ts.length false ++ true :: more) (hc : s.env.clk = t0 :: (ts ++ later))
    (hrise : risingFrom s.clkLast (t0 :: ts) = true) (hin : allWithin t0 limit ts = true) :
    ∃ q tr, Run s
      { s with
        todo := rest, seq := q, trace := tr, tStart := t0, clkLast := lastRead t0 ts,
        env := { s.env with rb := more, rbN := s.env.rbN + (ts.length + 1), clk := later,
                            clkN := s.env.clkN + (ts.length + 1) } }
      ([.clk t0] ++ seenRounds false ts ++ [.rb true]) := by
  simp only [risingFrom, Bool.and_eq_true, decide_eq_true_eq] at hrise
  obtain ⟨q1, tr1, h1⟩ := Run.clkStart (rest := .pollRb k :: rest) hr ht hc hrise.1
  obtain ⟨q2, tr2, h2⟩ := Run.rounds k hb ts (rest := rest) (more := true :: more) (later := later) (origin := t0)
    (s := { s with
      todo := .pollRb k :: rest, seq := q1, trace := tr1, tStart := t0, clkLast := t0,
      env := { s.env with clk := ts ++ later, clkN := s.env.clkN + 1 } })
    hr rfl (ho _) (by rw [hw]; exact he) rfl hrise.2 hin
  obtain ⟨q3, tr3, h3⟩ := Run.leave k (rest := rest) (more := more)
    (s := { s with
      todo := .pollRb k :: rest, seq := q2, trace := tr2, tStart := t0, clkLast := lastRead t0 ts,
      env := { s.env with rb := true :: more, rbN := s.env.rbN + ts.length, clk := later,
                          clkN := s.env.clkN + 1 + ts.length } }) hr rfl (by rw [hw])
  refine ⟨q3, tr3, ?_⟩
  have h := (h1.trans h2).trans h3
  rw [hw] at h
  rw [show s.env.rbN + (ts.length + 1) = s.env.rbN + ts.length + 1 by omega,
    show s.env.clkN + (ts.length + 1) = s.env.clkN + 1 + ts.length by omega]
  exact h

/-- A bounded wait for R/B# = 1 that hits its bound (R128, R202). -/
theorem Run.boundedExpire (k : Poll) {limit t0 t : Word64} (hb : k.bound = some limit) (hw : k.want = true)
    (ho : ∀ s, k.origin s = s.tStart) (ts : List Word64) {rest : List Micro} {more : List Level} {later : List Word64}
    {s : State} (hr : s.run = .running) (ht : s.todo = boundedWaitSteps k ++ rest)
    (he : s.env.rb = List.replicate (ts.length + 1) false ++ more) (hc : s.env.clk = t0 :: (ts ++ t :: later))
    (hrise : risingFrom s.clkLast (t0 :: (ts ++ [t])) = true) (hin : allWithin t0 limit ts = true)
    (hx : limit.toNat ≤ t.toNat - t0.toNat) :
    ∃ q tr, Run s
      (k.onExpiry { s with
        todo := rest, seq := q, trace := tr, tStart := t0, clkLast := t,
        env := { s.env with rb := more, rbN := s.env.rbN + (ts.length + 1), clk := later,
                            clkN := s.env.clkN + (ts.length + 2) } })
      ([.clk t0] ++ seenRounds false (ts ++ [t])) := by
  simp only [risingFrom, risingFrom_append, Bool.and_eq_true, decide_eq_true_eq] at hrise
  obtain ⟨q1, tr1, h1⟩ := Run.clkStart (rest := .pollRb k :: rest) hr ht hc hrise.1
  obtain ⟨q2, tr2, h2⟩ := Run.rounds k hb ts (rest := rest) (more := false :: more) (later := t :: later) (origin := t0)
    (s := { s with
      todo := .pollRb k :: rest, seq := q1, trace := tr1, tStart := t0, clkLast := t0,
      env := { s.env with clk := ts ++ t :: later, clkN := s.env.clkN + 1 } })
    hr rfl (ho _) (by rw [hw]; simpa [List.replicate_succ'] using he) rfl hrise.2.1 hin
  obtain ⟨q3, tr3, h3⟩ := Run.expire k hb (rest := rest) (more := more) (t := t) (later := later)
    (s := { s with
      todo := .pollRb k :: rest, seq := q2, trace := tr2, tStart := t0, clkLast := lastRead t0 ts,
      env := { s.env with rb := false :: more, rbN := s.env.rbN + ts.length, clk := t :: later,
                          clkN := s.env.clkN + 1 + ts.length } }) hr rfl (by rw [hw]; rfl) rfl hrise.2.2.1
    (by rw [ho]; exact hx)
  refine ⟨q3, tr3, ?_⟩
  have h := (h1.trans h2).trans h3
  rw [hw] at h
  have e : [Seen.clk t0] ++ seenRounds false (ts ++ [t]) = [Seen.clk t0] ++ seenRounds false ts ++ [.rb false, .clk t] := by
    simp [seenRounds]
  rw [e, show s.env.rbN + (ts.length + 1) = s.env.rbN + ts.length + 1 by omega,
    show s.env.clkN + (ts.length + 2) = s.env.clkN + 1 + ts.length + 1 by omega]
  exact h

/-- MEASURE_BUSY that sees the device busy (R200): the window's record. -/
theorem Run.busyWindow (w : BusyWindow) (ta tc : Word64) (raisedWp : Bool) {rest : List Micro} {more : List Level}
    {later : List Word64} {s : State} (hr : s.run = .running) (ht : s.todo = measureBusySteps ta tc raisedWp ++ rest)
    (hrec : s.record = .zero) (he : s.env.rb = w.rb ++ more) (hc : s.env.clk = w.clk ++ later)
    (hrise : risingFrom s.clkLast w.clk = true)
    (hin : w.within (orDefault ta tAssertDefault) (orDefault tc tCompleteDefault) = true) :
    ∃ q tr, Run s
      { s with
        todo := rest, seq := q, trace := tr, tStart := w.origin, busyStart := w.start, clkLast := w.stop,
        record := w.record,
        env := { s.env with rb := more, rbN := s.env.rbN + w.rb.length, clk := later,
                            clkN := s.env.clkN + w.clk.length } } w.seen := by
  obtain ⟨origin, before, start, during, late, stop⟩ := w
  simp only [BusyWindow.clk, BusyWindow.rb, BusyWindow.within, Bool.and_eq_true, List.append_assoc,
    List.cons_append, List.nil_append] at *
  obtain ⟨⟨hbefore, hduring⟩, hlate⟩ := hin
  simp only [risingFrom, risingFrom_append, Bool.and_eq_true, decide_eq_true_eq] at hrise
  obtain ⟨r1, r2, r3, r4, r5⟩ := hrise
  let ka : Poll := .busyAssert (orDefault ta tAssertDefault) raisedWp
  let kb : Poll := .busyComplete (orDefault tc tCompleteDefault)
  let mid : List Micro := [.busySeen, .clkBusyStart] ++ (.pollRb kb :: (.clkBusyEnd :: rest))
  obtain ⟨q1, tr1, h1⟩ := Run.clkStart (rest := .pollRb ka :: mid) hr ht hc r1
  let rb1 : List Level := false :: (List.replicate during.length false ++ (late.isNone :: more))
  let clk1 : List Word64 := start :: (during ++ (late.toList ++ stop :: later))
  obtain ⟨q2, tr2, h2⟩ := Run.rounds ka rfl before (rest := mid) (more := rb1) (later := clk1) (origin := origin)
    (s := { s with
      todo := .pollRb ka :: mid, seq := q1, trace := tr1, tStart := origin, clkLast := origin,
      env := { s.env with clk := before ++ clk1, clkN := s.env.clkN + 1 } })
    hr rfl rfl (by simpa [rb1, ka, Poll.want] using he) rfl r2 hbefore
  let e2 : Environment := { s.env with rb := rb1, rbN := s.env.rbN + before.length, clk := clk1,
                                       clkN := s.env.clkN + 1 + before.length }
  obtain ⟨q3, tr3, h3⟩ := Run.leave ka (rest := mid) (more := rb1.tail)
    (s := { s with
      todo := .pollRb ka :: mid, seq := q2, trace := tr2, tStart := origin, clkLast := lastRead origin before,
      env := e2 }) hr rfl rfl
  let e3 : Environment := { e2 with rb := rb1.tail, rbN := e2.rbN + 1 }
  let u3 : State := { s with
    todo := mid, seq := q3, trace := tr3, tStart := origin, clkLast := lastRead origin before, env := e3 }
  have h4 := Run.silent (s := u3) (unsettled_of_entry (m := .busySeen) hr rfl rfl)
    (engineStep_busySeen (rest := mid.tail) rfl) rfl rfl
  obtain ⟨q5, tr5, h5⟩ := Run.clkBusyStart (rest := .pollRb kb :: (.clkBusyEnd :: rest)) (t := start)
    (s := { u3 with todo := mid.tail, record := { u3.record with busyDetected := true } }) hr rfl rfl r3
  let clk5 : List Word64 := late.toList ++ stop :: later
  let e5 : Environment := { e3 with clk := during ++ clk5, clkN := e3.clkN + 1 }
  let u5 : State := { u3 with
    todo := .pollRb kb :: (.clkBusyEnd :: rest), seq := q5, trace := tr5, busyStart := start, clkLast := start,
    record := { u3.record with busyDetected := true }, env := e5 }
  obtain ⟨q6, tr6, h6⟩ := Run.rounds kb rfl during (rest := .clkBusyEnd :: rest) (more := late.isNone :: more)
    (later := clk5) (origin := start) (s := u5) hr rfl rfl rfl rfl r4 hduring
  let e6 : Environment := { e5 with rb := late.isNone :: more, rbN := e5.rbN + during.length, clk := clk5,
                                    clkN := e5.clkN + during.length }
  let u6 : State := { u5 with seq := q6, trace := tr6, clkLast := lastRead start during, env := e6 }
  have hrz : u6.record = { TimingRecord.zero with busyDetected := true } := by
    show ({ s.record with busyDetected := true } : TimingRecord) = _
    rw [hrec]
  cases late with
  | none =>
    have hstop : (lastRead start during).toNat ≤ stop.toNat := by simpa [risingFrom] using r5
    obtain ⟨q7, tr7, h7⟩ := Run.leave kb (rest := .clkBusyEnd :: rest) (more := more) (s := u6) hr rfl rfl
    obtain ⟨q8, tr8, h8⟩ := Run.clkBusyEnd (rest := rest) (t := stop) (ts := later)
      (s := { u6 with
        todo := .clkBusyEnd :: rest, seq := q7, trace := tr7, env := { e6 with rb := more, rbN := e6.rbN + 1 } })
      hr rfl rfl hstop
    refine ⟨q8, tr8, ?_⟩
    have h := (((((h1.trans h2).trans h3).trans h4).trans h5).trans h6).trans (h7.trans h8)
    have eseen : BusyWindow.seen ⟨origin, before, start, during, none, stop⟩ =
        (((((([.clk origin] ++ seenRounds true before) ++ [.rb false]) ++ []) ++ [.clk start]) ++ seenRounds false during) ++
          ([.rb true] ++ [.clk stop])) := by
      simp [BusyWindow.seen]
    rw [eseen]
    have hrb : s.env.rbN + (List.replicate before.length true ++
        false :: (List.replicate during.length false ++ [(none : Option Word64).isNone])).length =
        s.env.rbN + before.length + 1 + during.length + 1 := by simp; omega
    have hclk : s.env.clkN + (origin :: (before ++ start :: (during ++ ((none : Option Word64).toList ++ [stop])))).length =
        s.env.clkN + 1 + before.length + 1 + during.length + 1 := by simp; omega
    convert h using 2
    · exact hrz ▸ rfl
    · rw [hrb, hclk]
    · rfl
    · rfl
  | some x =>
    have hlast : (lastRead start during).toNat ≤ x.toNat ∧ x.toNat ≤ stop.toNat := by simpa [risingFrom] using r5
    have hx : (orDefault tc tCompleteDefault).toNat ≤ x.toNat - start.toNat := by simpa using hlate
    obtain ⟨q7, tr7, h7⟩ := Run.expire kb rfl (rest := .clkBusyEnd :: rest) (more := more) (t := x)
      (later := stop :: later) (s := u6) hr rfl rfl rfl hlast.1 hx
    obtain ⟨q8, tr8, h8⟩ := Run.clkBusyEnd (rest := rest) (t := stop) (ts := later)
      (s := { u6 with
        todo := .clkBusyEnd :: rest, seq := q7, trace := tr7, clkLast := x, record := { u6.record with timedOut := true },
        env := { e6 with rb := more, rbN := e6.rbN + 1, clk := stop :: later, clkN := e6.clkN + 1 } })
      hr rfl rfl hlast.2
    refine ⟨q8, tr8, ?_⟩
    have h := (((((h1.trans h2).trans h3).trans h4).trans h5).trans h6).trans (h7.trans h8)
    have eseen : BusyWindow.seen ⟨origin, before, start, during, some x, stop⟩ =
        (((((([.clk origin] ++ seenRounds true before) ++ [.rb false]) ++ []) ++ [.clk start]) ++ seenRounds false during) ++
          ([.rb false, .clk x] ++ [.clk stop])) := by
      simp [BusyWindow.seen]
    rw [eseen]
    have hrb : s.env.rbN + (List.replicate before.length true ++
        false :: (List.replicate during.length false ++ [(some x).isNone])).length =
        s.env.rbN + before.length + 1 + during.length + 1 := by simp; omega
    have hclk : s.env.clkN + (origin :: (before ++ start :: (during ++ ((some x).toList ++ [stop])))).length =
        s.env.clkN + 1 + before.length + 1 + during.length + 1 + 1 := by simp; omega
    convert h using 2
    · exact hrz ▸ rfl
    · rw [hrb, hclk]
    · rfl
    · rfl

/-- MEASURE_BUSY that never sees the device busy (R200, R206 (b)): WP low again if it was raised, and the end. -/
theorem Run.neverBusy (ta tc : Word64) (raisedWp : Bool) {t0 t : Word64} (ts : List Word64) {rest : List Micro}
    {more : List Level} {later : List Word64} {s : State} (hr : s.run = .running)
    (ht : s.todo = measureBusySteps ta tc raisedWp ++ rest)
    (he : s.env.rb = List.replicate (ts.length + 1) true ++ more) (hc : s.env.clk = t0 :: (ts ++ t :: later))
    (hrise : risingFrom s.clkLast (t0 :: (ts ++ [t])) = true)
    (hin : allWithin t0 (orDefault ta tAssertDefault) ts = true)
    (hx : (orDefault ta tAssertDefault).toNat ≤ t.toNat - t0.toNat) :
    ∃ q tr, Run s
      { s with
        todo := lowerWp raisedWp ++ [.done resOk], seq := q, trace := tr, tStart := t0, clkLast := t,
        env := { s.env with rb := more, rbN := s.env.rbN + (ts.length + 1), clk := later,
                            clkN := s.env.clkN + (ts.length + 2) } }
      ([.clk t0] ++ seenRounds true (ts ++ [t])) := by
  let k : Poll := .busyAssert (orDefault ta tAssertDefault) raisedWp
  let after : List Micro := [.busySeen, .clkBusyStart, .pollRb (.busyComplete (orDefault tc tCompleteDefault)),
    .clkBusyEnd] ++ rest
  simp only [risingFrom, risingFrom_append, Bool.and_eq_true, decide_eq_true_eq] at hrise
  obtain ⟨q1, tr1, h1⟩ := Run.clkStart (rest := .pollRb k :: after) hr ht hc hrise.1
  obtain ⟨q2, tr2, h2⟩ := Run.rounds k rfl ts (rest := after) (more := true :: more) (later := t :: later) (origin := t0)
    (s := { s with
      todo := .pollRb k :: after, seq := q1, trace := tr1, tStart := t0, clkLast := t0,
      env := { s.env with clk := ts ++ t :: later, clkN := s.env.clkN + 1 } })
    hr rfl rfl (by simpa [List.replicate_succ', k, Poll.want] using he) rfl hrise.2.1 hin
  obtain ⟨q3, tr3, h3⟩ := Run.expire k rfl (rest := after) (more := more) (t := t) (later := later)
    (s := { s with
      todo := .pollRb k :: after, seq := q2, trace := tr2, tStart := t0, clkLast := lastRead t0 ts,
      env := { s.env with rb := true :: more, rbN := s.env.rbN + ts.length, clk := t :: later,
                          clkN := s.env.clkN + 1 + ts.length } }) hr rfl rfl rfl hrise.2.2.1 hx
  refine ⟨q3, tr3, ?_⟩
  have h := (h1.trans h2).trans h3
  have e : [Seen.clk t0] ++ seenRounds true (ts ++ [t]) = [Seen.clk t0] ++ seenRounds true ts ++ [.rb true, .clk t] := by
    simp [seenRounds]
  rw [e, show s.env.rbN + (ts.length + 1) = s.env.rbN + ts.length + 1 by omega,
    show s.env.clkN + (ts.length + 2) = s.env.clkN + 1 + ts.length + 1 by omega]
  exact h

/-! ## The end of an operation -/

/-- The end of the list: the result code and READY. -/
theorem Run.done {code : Byte} {s : State} (hr : s.run = .running) (ht : s.todo = [.done code]) :
    Run s (s.complete code) [] := by
  have h := Run.silent (s := s) (unsettled_of_entry (m := .done code) hr ht rfl) (engineStep_done ht) rfl rfl
  exact h

/-- An accepted request whose steps run to their end. -/
theorem request_ends {checks : List (Option OperandCheck)} {steps : List Micro} {s t : State} {seen : List Seen}
    {code : Byte} (hr : s.run = .ready) (hsl : s.slice = none) (hc : firstFailure checks = none)
    (h : Run (s.accept (steps ++ [.done resOk])) t seen) (ht : t.todo = [.done code]) (htr : t.run = .running) :
    request checks steps s = .next (t.complete code) ∧ Shown s (t.complete code) seen := by
  have h' := h.trans (Run.done htr ht)
  refine ⟨?_, ?_⟩
  · rw [request_accept hr hc]; exact h'.path.settle (by simp [State.settled]) hsl
  · obtain ⟨es, h1, h2, -⟩ := h'.shown
    exact ⟨es, by rw [h1]; rfl, by simpa using h2⟩

/-- A run of samples is a received run of bytes (R43, R65). -/
theorem received_writeList {s t : State} (bytes : List Byte) (hwf : Memory.wf s.rxbuf = true)
    (hb : t.rxbuf = Memory.writeList s.rxbuf 0 bytes) (hl : t.rxlen.toNat = bytes.length) : Received s t bytes := by
  refine ⟨hl, fun k => ?_⟩
  rw [hb, Memory.read_writeList hwf]
  simp

end Sys2Proof.Machine
end

