-- ==== Sys2Proof/Tests/Slice0.lean ====
section
/-! SUPPORT. Tests: ill-formed terms refused, decoding of words written out from the tables of R91 and R92, the vectors of
spec/95_test_vectors.md (named V-...), and for every statement with hypotheses a state and operands that meet them. -/

namespace Sys2Proof.Machine.Tests

open Sys2Proof

set_option Elab.async false

/-! ## Well-formedness: one ill-formed term per check (R93) -/

theorem test_alen_nine_refused : Instr.wellFormed .async 4320 (.sendAddresses .zero 9) = false := by decide
theorem test_alen_eight_accepted : Instr.wellFormed .async 4320 (.sendAddresses .zero 8) = true := by decide
theorem test_count_above_bound_refused : Instr.wellFormed .async 4320 (.readData 4321) = false := by decide
theorem test_odd_toggle_burst_refused : Instr.wellFormed .toggle 4320 (.sendData 3) = false := by decide
theorem test_odd_async_burst_accepted : Instr.wellFormed .async 4320 (.sendData 3) = true := by decide
theorem test_column_cycles_zero_refused : Instr.wellFormed .async 4320 (.readParameterPage false (some 0)) = false := by
  decide
theorem test_column_cycles_three_refused : Instr.wellFormed .async 4320 (.pageRead .zero 5 0 false (some 3)) = false := by
  decide
theorem test_subpage_zero_refused : Instr.wellFormed .async 4320 (.tlcSubpageProgram 0 .zero 0 0) = false := by decide
theorem test_subpage_four_refused : Instr.wellFormed .async 4320 (.tlcSubpageProgram 4 .zero 0 0) = false := by decide

/-! ## Decoding: `OP[7:4]` the family, `OP[3:0]` the index (R91, R92) -/

theorem test_decode_idle : decodeTableWord 8 0b00000000 = some .idle := by decide
theorem test_decode_sendCommand : decodeTableWord 8 0b00000001 = some (.sendCommand 0) := by decide
theorem test_decode_sendAddresses : decodeTableWord 8 0b00000010 = some (.sendAddresses .zero 0) := by decide
theorem test_decode_sendData : decodeTableWord 8 0b00000011 = some (.sendData 0) := by decide
theorem test_decode_readData : decodeTableWord 8 0b00000100 = some (.readData 0) := by decide
theorem test_decode_waitReady : decodeTableWord 8 0b00000101 = some (.waitReady none) := by decide
theorem test_decode_enableErase : decodeTableWord 8 0b00000110 = some .enableErase := by decide
theorem test_decode_disableErase : decodeTableWord 8 0b00000111 = some .disableErase := by decide
theorem test_decode_measureBusy : decodeTableWord 8 0b00001000 = some (.measureBusy 0 0) := by decide
theorem test_decode_reset : decodeTableWord 8 0b00010000 = some .reset := by decide
theorem test_decode_readId : decodeTableWord 8 0b00010001 = some (.readId 0 0) := by decide
theorem test_decode_readUniqueId : decodeTableWord 8 0b00010010 = some .readUniqueId := by decide
theorem test_decode_readParameterPage : decodeTableWord 8 0b00010011 = some (.readParameterPage false none) := by decide
theorem test_decode_pageRead : decodeTableWord 8 0b00010100 = some (.pageRead .zero 0 0 false none) := by decide
theorem test_decode_changeReadColumn : decodeTableWord 8 0b00010101 = some (.changeReadColumn .zero 0) := by decide
theorem test_decode_pageProgram : decodeTableWord 8 0b00010110 = some (.pageProgram .zero 0 0 0) := by decide
theorem test_decode_blockErase : decodeTableWord 8 0b00010111 = some (.blockErase .zero 0) := by decide
theorem test_decode_setFeatures : decodeTableWord 8 0b00011000 = some (.setFeatures 0) := by decide
theorem test_decode_getFeatures : decodeTableWord 8 0b00011001 = some (.getFeatures 0) := by decide
theorem test_decode_readStatus : decodeTableWord 8 0b00011010 = some .readStatus := by decide
theorem test_decode_partialErase : decodeTableWord 8 0b00011011 = some (.partialErase .zero 0 0) := by decide
theorem test_decode_tlcSubpageProgram : decodeTableWord 8 0b00011100 = some (.tlcSubpageProgram 0 .zero 0 0) := by decide
theorem test_decode_partialProgram : decodeTableWord 8 0b00011101 = some (.partialProgram .zero 0 0 0 0) := by decide
theorem test_decode_tRead : decodeTableWord 8 0b00100000 = some (.tRead .zero 0 0 false false 0 0) := by decide
theorem test_decode_tProgram : decodeTableWord 8 0b00100001 = some (.tProgram .zero 0 0 0 0 0) := by decide
theorem test_decode_tErase : decodeTableWord 8 0b00100010 = some (.tErase .zero 0 0 0) := by decide

/-- V-REF-1: the codes of no row. -/
theorem test_decode_illegal_codes :
    [0x09, 0x0F, 0x1E, 0x1F, 0x23, 0xFF].map (decodeTableWord 8) = [none, none, none, none, none, none] := by decide
/-- V-REF-2: reserved flag bit 5. -/
theorem test_decode_reserved_flag :
    decode { Request.zero with op := 0x01, arg0 := 0xFF, flags := 0x20 } = .error (.reservedFlags 0x20) := by decide
/-- V-REF-3: FETCH on RESET is ignored. -/
theorem test_decode_ignored_flag : decode { Request.zero with op := 0x10, flags := 0x08 } = .ok .reset := by decide
/-- V-PP-3, V-RD-3, V-TR-3, V-WAIT-2: the flag bits by their numbers. -/
theorem test_decode_flags :
    decode { Request.zero with op := 0x13, flags := 0b00000011, ccyc := 2 } = .ok (.readParameterPage true (some 2)) ∧
    decode { Request.zero with op := 0x14, flags := 0b00000110, ccyc := 1 } = .ok (.pageRead .zero 0 0 true (some 1)) ∧
    decode { Request.zero with op := 0x20, flags := 0b00001100 } = .ok (.tRead .zero 0 0 true true 0 0) ∧
    decode { Request.zero with op := 0x05, flags := 0b00010000, timeout := 5000000 } = .ok (.waitReady (some 5000000)) := by
  decide

/-! ## Small states -/

/-- Six different timing values. -/
def times : Timing := { tWB := 1, tADL := 2, tCCS := 3, tRR := 4, tRHW := 5, tWHR := 6 }

/-- A block after reset with timing values, TXBUF and the environment's next answers. -/
def block (rb : List Level) (dq : List Byte) (clk : List Word64) (tx : List Byte := []) (mode : Mode := .async) : State :=
  { State.reset with
    timing := times, mode := mode, opnd := { Request.zero with txbuf := Memory.ofBytes tx },
    env := { Environment.free with rb := rb, dq := dq, clk := clk } }

/-- What a field of the next state is. -/
def after {α : Type} (a : Answer) (f : State → α) : Option α :=
  match a with
  | .next t => some (f t)
  | .fault _ => none
  | .refused _ => none

/-- What is seen of the run of an instruction on a block with an empty trace. -/
def seenOf (i : Instr) (s : State) : Option (List Seen) := after (exec i s) (fun t => observe s.pins t.trace)

/-- The first bytes of RXBUF, as many as `RXLEN` says, and the result code. -/
def resultOf (i : Instr) (s : State) : Option (Byte × List Byte) :=
  after (exec i s) (fun t => (t.res, Memory.take t.rxbuf t.rxlen.toNat))

/-- block 1, page 0 of geometry G1 -/
def page1 : AddrArray := #v[0x00, 0x00, 0x00, 0x01, 0x00, 0, 0, 0]
/-- the row of block 2 of geometry G1 -/
def row2 : AddrArray := #v[0x00, 0x02, 0x00, 0, 0, 0, 0, 0]

/-! ## Vectors: primitives -/

/-- V-IDLE-2 -/
theorem test_idle_level_changes :
    let p : Pins := { Pins.reset with ce := false, we := false, ale := true, dqDir := .inp, wp := true }
    after (exec .idle { block [] [] [] with pins := p }) (fun t => (levelChanges p t.trace, t.pins)) =
      some ([.w .ce true, .w .we true, .w .ale false, .dirDQ .out], { Pins.reset with wp := true }) := by decide +kernel
/-- The listing order backwards: another `IdleOrder` (D5). -/
def backwards : IdleOrder := IdleOrder.listing.reverse
/-- V-IDLE-2 with another `IdleOrder`: the same pins by the same changes in that order. -/
theorem test_idle_order :
    let p : Pins := { Pins.reset with ce := false, we := false, ale := true, dqDir := .inp, wp := true }
    after (exec .idle { block [] [] [] with pins := p, idleOrder := backwards }) (fun t => (levelChanges p t.trace, t.pins)) =
      some ([.dirDQ .out, .w .ale false, .w .we true, .w .ce true], { Pins.reset with wp := true }) := by decide +kernel
/-- R79 and R41 rule out some orders, not all but the listing order. -/
theorem test_lawful_orders :
    backwards.complete = true ∧ backwards.lawful = false ∧
      IdleOrder.lawful [.re, .ce, .strobeDir, .we, .dqDir, .ale, .dq, .cle] = true ∧ IdleOrder.listing.lawful = true ∧
      IdleOrder.complete [.ce, .we, .re, .cle, .ale, .dqDir, .dq, .dq] = false := by decide +kernel
/-- V-IDLE-1 -/
theorem test_idle_stutters :
    after (exec .idle (block [] [] [])) (fun t => (t.trace.length, levelChanges Pins.reset t.trace)) = some (9, []) := by
  decide +kernel
/-- V-CMD-1 -/
theorem test_command_events :
    after (exec (.sendCommand 0xFF) (block [] [] [])) State.trace =
      some [.w .ce false, .w .cle true, .dqClr 0x00, .dqSet 0xFF, .w .we false, .w .we true, .w .ce true, .w .we true,
        .w .re true, .w .cle false, .w .ale false, .dirDQ .out, .dqClr 0xFF, .dqSet 0x00, .dirStrobe .inp] := by
  decide +kernel
/-- V-CMD-2 -/
theorem test_command_zero :
    after (exec (.sendCommand 0x00) (block [] [] [])) (fun t => levelChanges Pins.reset t.trace) =
      some [.w .ce false, .w .cle true, .w .we false, .w .we true, .w .ce true, .w .cle false] := by decide +kernel
/-- V-ADR-1 -/
theorem test_addresses_in_order :
    after (exec (.sendAddresses page1 5) (block [] [] [])) (fun t => (t.trace.length, observe Pins.reset t.trace)) =
      some (31, [.cycle (.address 0x00), .cycle (.address 0x00), .cycle (.address 0x00), .cycle (.address 0x01),
        .cycle (.address 0x00)]) := by decide +kernel
/-- V-ADR-3 -/
theorem test_addresses_nine : resultOf (.sendAddresses page1 9) (block [] [] []) = some (5, []) := by decide +kernel
/-- V-DIN-1 -/
theorem test_data_async :
    after (exec (.sendData 2) (block [] [] [] [0xA5, 0x5A])) (fun t => (t.trace.length, levelChanges Pins.reset t.trace)) =
      some (20, [.w .ce false, .dqSet 0xA5, .w .we false, .w .we true, .dqClr 0xA5, .dqSet 0x5A, .w .we false,
        .w .we true, .w .ce true, .dqClr 0xFF]) := by decide +kernel
/-- V-DIN-3: 23 events, the strobes as in the example of R124. -/
theorem test_data_toggle :
    after (exec (.sendData 2) (block [] [] [] [0x11, 0x22] .toggle))
        (fun t => (t.trace.length, levelChanges Pins.reset t.trace)) =
      some (23, [.w .ce false, .dirStrobe .out, .dqSet 0x11, .w .dqs true, .w .dqsc false, .dqClr (~~~0x22), .dqSet 0x22,
        .w .dqs false, .w .dqsc true, .w .ce true, .dqClr 0xFF, .dirStrobe .inp]) := by decide +kernel
/-- V-DIN-4 and V-DIN-5 -/
theorem test_data_refusals :
    resultOf (.sendData 3) (block [] [] [] [] .toggle) = some (5, []) ∧
    resultOf (.sendData 4321) (block [] [] []) = some (5, []) := by decide +kernel
/-- V-DOUT-1 -/
theorem test_read_async :
    after (exec (.readData 2) (block [true] [0x2C, 0xDA] [])) (fun t => (t.trace.length, levelChanges Pins.reset t.trace)) =
        some (20, [.dirDQ .inp, .rb true, .dly .tRR 4, .w .ce false, .w .re false, .dq 0x2C, .w .re true, .w .re false,
          .dq 0xDA, .w .re true, .w .ce true, .dirDQ .out, .dly .tRHW 5]) ∧
      resultOf (.readData 2) (block [true] [0x2C, 0xDA] []) = some (0, [0x2C, 0xDA]) := by decide +kernel
/-- V-DOUT-5 -/
theorem test_read_toggle_odd :
    after (exec (.readData 3) (block [true] [1, 2, 3] [] [] .toggle)) (fun t => levelChanges Pins.reset t.trace) =
        some [.dirDQ .inp, .rb true, .dly .tRR 4, .w .ce false, .w .re false, .dq 1, .w .re true, .dq 2, .w .re false,
          .dq 3, .w .ce true, .w .re true, .dirDQ .out, .dly .tRHW 5] ∧
      resultOf (.readData 3) (block [true] [1, 2, 3] [] [] .toggle) = some (0, [1, 2, 3]) := by decide +kernel
/-- V-WAIT-2 -/
theorem test_wait_timeout :
    after (exec (.waitReady (some 5000000)) (block [false, false] [] [100, 2000100, 5000100])) (fun t => (t.res, t.trace)) =
      some (7, [.clk 100, .rb false, .clk 2000100, .rb false, .clk 5000100]) := by decide +kernel
/-- V-WAIT-3 -/
theorem test_wait_bound_zero :
    after (exec (.waitReady (some 0)) (block [true] [] [7])) (fun t => (t.res, t.trace)) =
        some (0, [.clk 7, .rb true]) ∧
      after (exec (.waitReady (some 0)) (block [false] [] [7, 7])) (fun t => (t.res, t.trace)) =
        some (7, [.clk 7, .rb false, .clk 7]) := by decide +kernel
/-- V-WP-1 -/
theorem test_wp_up : after (exec .enableErase (block [] [] [])) (fun t => (t.trace, t.pins.wp)) =
    some ([.w .wp true], true) := by decide +kernel
theorem test_wp_down :
    after (exec .disableErase { block [] [] [] with pins := { Pins.reset with wp := true } })
      (fun t => (t.trace, t.pins.wp)) = some ([.w .wp false], false) := by decide +kernel
/-- V-MB-1 -/
theorem test_busy_window :
    after (exec (.measureBusy 0 0) (block [true, false, false, true] [] [1000, 1500, 2000, 2000900, 2001000]))
        (fun t => (t.trace, t.record)) =
      some ([.clk 1000, .rb true, .clk 1500, .rb false, .clk 2000, .rb false, .clk 2000900, .rb true, .clk 2001000],
        { durationNs := 1999000, rawStatusByte := 0, readyFlag := false, passFlag := false, busyDetected := true,
          timedOut := false }) := by decide +kernel
/-- V-MB-4 and V-MB-5 -/
theorem test_busy_bounds :
    after (exec (.measureBusy 0 100) (block [false, false, false] [] [0, 5, 50, 105, 110]))
        (fun t => (t.record.durationNs, t.record.busyDetected, t.record.timedOut, t.res)) = some (105, true, true, 0) ∧
      after (exec (.measureBusy 0 0) (block [true, true] [] [0, 4999999, 5000000])) (fun t => (t.record, t.run)) =
        some (.zero, .ready) := by decide +kernel

/-! ## Vectors: dispatcher operations -/

/-- V-RST-1 -/
theorem test_reset :
    after (exec .reset (block [false, false, true] [] [])) (fun t => (t.trace.length, t.res, t.rxlen)) = some (19, 0, 0) ∧
      seenOf .reset (block [false, false, true] [] []) =
        some [.cycle (.command 0xFF), .dly .tWB 1, .rb false, .rb false, .rb true] := by decide +kernel
/-- V-ID-1 -/
theorem test_read_id :
    seenOf (.readId 0x00 2) (block [true] [0x2C, 0xDA] []) =
        some [.cycle (.command 0x90), .cycle (.address 0x00), .dly .tWHR 6, .rb true, .dly .tRR 4,
          .cycle (.dataOut 0x2C), .cycle (.dataOut 0xDA), .dly .tRHW 5] ∧
      resultOf (.readId 0x00 2) (block [true] [0x2C, 0xDA] []) = some (0, [0x2C, 0xDA]) := by decide +kernel
/-- program 3.1, request 2: 144 events -/
theorem test_read_unique_id :
    after (exec .readUniqueId (block [false, false, true, true] (List.replicate 32 0x55) []))
      (fun t => (t.trace.length, t.rxlen, t.res)) = some (144, 32, 0) := by decide +kernel
/-- V-PP-2 (the address cycle) and program 3.1, request 3 (815 events) -/
theorem test_parameter_page :
    (seenOf (.readParameterPage true none) (block [] [] [])).map (List.take 2) =
        some [.cycle (.command 0xEC), .cycle (.address 0x40)] ∧
      after (exec (.readParameterPage false none) (block [false, true, true] (List.replicate 256 0x4F) []))
        (fun t => (t.trace.length, t.rxlen)) = some (815, 256) := by decide +kernel
/-- V-RD-2 -/
theorem test_page_read_prefixed :
    (seenOf (.pageRead page1 5 4 true none) (block [] [] [])).map (List.take 9) =
      some [.cycle (.command 0x00), .cycle (.command 0x00), .cycle (.address 0x00), .cycle (.address 0x00),
        .cycle (.address 0x00), .cycle (.address 0x01), .cycle (.address 0x00), .cycle (.command 0x30), .dly .tWB 1] := by
  decide +kernel
/-- The example of R161. -/
theorem test_page_read_bytewise :
    (seenOf (.pageRead page1 5 2 false (some 2)) (block [true, true, true] [0xAB, 0xCD] [])).map (List.drop 9) =
      some [.cycle (.command 0x05), .cycle (.address 0x00), .cycle (.address 0x00), .cycle (.command 0xE0), .dly .tCCS 3,
        .rb true, .dly .tRR 4, .cycle (.dataOut 0xAB), .dly .tRHW 5,
        .cycle (.command 0x05), .cycle (.address 0x01), .cycle (.address 0x00), .cycle (.command 0xE0), .dly .tCCS 3,
        .rb true, .dly .tRR 4, .cycle (.dataOut 0xCD), .dly .tRHW 5] := by decide +kernel
/-- V-CRC-1 -/
theorem test_change_column :
    seenOf (.changeReadColumn #v[0x00, 0x10, 0, 0, 0, 0, 0, 0] 2) (block [] [] []) =
      some [.cycle (.command 0x05), .cycle (.address 0x00), .cycle (.address 0x10), .cycle (.command 0xE0), .dly .tCCS 3] := by
  decide +kernel
/-- V-PGM-1 -/
theorem test_page_program :
    seenOf (.pageProgram page1 5 4 0x10) (block [true] [] [] [0x00, 0x01, 0x02, 0x03]) =
      some [.cycle (.command 0x80), .cycle (.address 0x00), .cycle (.address 0x00), .cycle (.address 0x00),
        .cycle (.address 0x01), .cycle (.address 0x00), .dly .tADL 2, .cycle (.dataIn 0x00), .cycle (.dataIn 0x01),
        .cycle (.dataIn 0x02), .cycle (.dataIn 0x03), .cycle (.command 0x10), .dly .tWB 1, .rb true] := by decide +kernel
/-- V-PGM-3 -/
theorem test_page_program_odd_toggle :
    resultOf (.pageProgram page1 5 5 0x10) (block [] [] [] [] .toggle) = some (5, []) := by decide +kernel
/-- V-ERS-1 -/
theorem test_block_erase :
    seenOf (.blockErase #v[0x00, 0x01, 0x00, 0, 0, 0, 0, 0] 3) (block [true] [] []) =
      some [.cycle (.command 0x60), .cycle (.address 0x00), .cycle (.address 0x01), .cycle (.address 0x00),
        .cycle (.command 0xD0), .dly .tWB 1, .rb true] := by decide +kernel
/-- V-SF-1 -/
theorem test_set_features :
    seenOf (.setFeatures 0x90) (block [true] [] [] [0x01, 0x00, 0x00, 0x00]) =
      some [.cycle (.command 0xEF), .cycle (.address 0x90), .dly .tADL 2, .cycle (.dataIn 0x01), .cycle (.dataIn 0x00),
        .cycle (.dataIn 0x00), .cycle (.dataIn 0x00), .dly .tWB 1, .rb true] := by decide +kernel
/-- V-GF-1 -/
theorem test_get_features :
    seenOf (.getFeatures 0x90) (block [true, true] [0x01, 0x00, 0x00, 0x00] []) =
        some [.cycle (.command 0xEE), .cycle (.address 0x90), .dly .tWB 1, .rb true, .rb true, .dly .tRR 4,
          .cycle (.dataOut 0x01), .cycle (.dataOut 0x00), .cycle (.dataOut 0x00), .cycle (.dataOut 0x00), .dly .tRHW 5] ∧
      resultOf (.getFeatures 0x90) (block [true, true] [0x01, 0x00, 0x00, 0x00] []) = some (0, [0x01, 0x00, 0x00, 0x00]) := by
  decide +kernel
/-- V-ST-1 -/
theorem test_read_status :
    seenOf .readStatus (block [true] [0xE0] []) =
        some [.cycle (.command 0x70), .dly .tWHR 6, .rb true, .dly .tRR 4, .cycle (.dataOut 0xE0), .dly .tRHW 5] ∧
      after (exec .readStatus (block [true] [0xE0] [])) (fun t => (t.rxbuf, t.rxlen, t.record)) =
        some ([(0, 0xE0)], 1, .zero) := by decide +kernel
/-- V-PE-1 -/
theorem test_partial_erase :
    seenOf (.partialErase #v[0x00, 0x03, 0x00, 0, 0, 0, 0, 0] 3 10) (block [true] [] []) =
      some [.cycle (.command 0x60), .cycle (.address 0x00), .cycle (.address 0x03), .cycle (.address 0x00),
        .cycle (.command 0xD0), .spin 10, .cycle (.command 0xFF), .dly .tWB 1, .rb true] := by decide +kernel
/-- V-TLC-1 -/
theorem test_tlc_first_subpage :
    seenOf (.tlcSubpageProgram 1 page1 1 2) (block [true] [] [] [0xAA, 0x55] .toggle) =
      some [.cycle (.command 0x01), .cycle (.command 0x80), .cycle (.address 0x00), .dly .tADL 2, .cycle (.dataIn 0xAA),
        .cycle (.dataIn 0x55), .cycle (.command 0x1A), .dly .tWB 1, .rb true] := by decide +kernel
/-- V-TLC-2 -/
theorem test_tlc_third_subpage :
    seenOf (.tlcSubpageProgram 3 page1 0 0) (block [true] [] []) =
      some [.cycle (.command 0x03), .cycle (.command 0x80), .dly .tADL 2, .cycle (.command 0x10), .dly .tWB 1, .rb true] := by
  decide +kernel
/-- V-PP-5 -/
theorem test_partial_program :
    seenOf (.partialProgram page1 0 2 0x10 50) (block [true] [] [] [0x00, 0x00]) =
      some [.cycle (.command 0x80), .dly .tADL 2, .cycle (.dataIn 0x00), .cycle (.dataIn 0x00), .cycle (.command 0x10),
        .spin 50, .cycle (.command 0xFF), .dly .tWB 1, .rb true] := by decide +kernel

/-! ## Vectors: timed operations -/

/-- Program 3.3: the environment's answers. -/
def timedErase : State :=
  block [true, true, false, false, false, true, true] [0xE0] [1000, 5000, 5400, 6000, 1500000, 3005000, 3006000]

/-- Program 3.3 -/
theorem test_timed_erase :
    seenOf (.tErase row2 3 0 0) timedErase =
        some [.wp true, .clk 1000, .rb true, .cycle (.command 0x60), .cycle (.address 0x00), .cycle (.address 0x02),
          .cycle (.address 0x00), .cycle (.command 0xD0), .clk 5000, .rb true, .clk 5400, .rb false, .clk 6000, .rb false,
          .clk 1500000, .rb false, .clk 3005000, .rb true, .clk 3006000, .cycle (.command 0x70), .dly .tWHR 6, .rb true,
          .dly .tRR 4, .cycle (.dataOut 0xE0), .dly .tRHW 5, .wp false] ∧
      after (exec (.tErase row2 3 0 0) timedErase) (fun t => (t.res, t.record, t.record.succeeded)) =
        some (0, { durationNs := 3000000, rawStatusByte := 0xE0, readyFlag := true, passFlag := true, busyDetected := true,
                   timedOut := false }, true) := by decide +kernel
/-- V-TE-2 -/
theorem test_timed_erase_guard :
    after (exec (.tErase row2 3 0 0) (block [false] [] [0, 5000000])) (fun t => (t.trace, t.res, t.record)) =
      some ([.w .wp true, .clk 0, .rb false, .clk 5000000, .w .wp false], 2, .zero) := by decide +kernel
/-- V-TR-1 -/
theorem test_timed_read :
    after (exec (.tRead row2 3 4 false true 0 0)
        (block [true, false, true, true, true] [0x0A, 0x0B, 0x0C, 0x0D, 0xE0] [0, 1, 2, 3]))
        (fun t => (t.fetched, t.rxlen, t.record.rawStatusByte, t.res, t.pins.wp)) = some (true, 5, 0xE0, 0, false) ∧
      resultOf (.tRead row2 3 4 false true 0 0)
        (block [true, false, true, true, true] [0x0A, 0x0B, 0x0C, 0x0D, 0xE0] [0, 1, 2, 3]) =
        some (0, [0x0A, 0x0B, 0x0C, 0x0D, 0xE0]) := by decide +kernel
/-- V-TR-2 -/
theorem test_timed_read_unfetched :
    after (exec (.tRead row2 3 4 false false 0 0) (block [true, false, true, true] [0xE0] [0, 1, 2, 3]))
        (fun t => (t.fetched, t.rxbuf, t.rxlen)) = some (false, [(0, 0xE0)], 1) := by decide +kernel
/-- V-TP-1: the device fails the program. -/
theorem test_timed_program :
    after (exec (.tProgram page1 5 2 0x10 0 0) (block [true, false, true, true] [0xE1] [0, 1, 2, 3] [0x12, 0x34]))
      (fun t => (t.res, t.record.rawStatusByte, t.record.passFlag, t.record.readyFlag, t.record.succeeded, t.pins.wp)) =
      some (0, 0xE1, false, true, false, false) := by decide +kernel
/-- V-TE-3: busy never seen, no status read. -/
theorem test_timed_program_unseen :
    after (exec (.tProgram page1 0 0 0x10 0 0) (block [true, true] [] [0, 1, 5000001]))
      (fun t => (t.res, t.record, t.rxlen, (observe Pins.reset t.trace).drop 5)) =
      some (0, .zero, 0, [.cycle (.command 0x10), .clk 1, .rb true, .clk 5000001, .wp false]) := by decide +kernel

/-! ## Vectors: status, look-up table, addresses -/

/-- V-ST-2 -/
theorem test_status_bits :
    [0xE0, 0xE1, 0x60, 0x80, 0x00, 0xFF, 0xC0].map
        (fun st => (statusFail st, statusReady st, statusWriteProtectInactive st, statusPass st)) =
      [(false, true, true, true), (true, true, true, false), (false, true, false, true), (false, false, true, true),
       (false, false, false, true), (true, true, true, false), (false, true, true, true)] := by decide
/-- The example pin map M of 2.2. -/
def mapM : PinMap :=
  { dq := #v[1, 3, 5, 7, 9, 11, 13, 15], wp := 16, cle := 17, ale := 18, re := 19, we := 20, ce := 21, rb := 22, dqs := 23,
    dqsc := 24 }
/-- 2.2 -/
theorem test_masks : setMask mapM 0xA5 = 0x00008822 ∧ clearMask mapM 0xA5 = 0x00002288 ∧ dqPinMask mapM = 0x0000AAAA := by
  decide
theorem test_gather : gather mapM 0xFFFF8822 = 0xA5 ∧ gather mapM 0x00005555 = 0x00 := by decide
/-- 2.1: (5, 17) and (2047, 255) of G1; the column bytes of R101. -/
theorem test_addresses :
    pageTuple 2 3 0 (rowAddress 256 5 17) = [0x00, 0x00, 0x11, 0x05, 0x00] ∧
      eraseTuple 3 (rowAddress 256 2047 255) = [0xFF, 0xFF, 0x07] ∧
      blockPageOfRow 256 (rowOfTuple 0 [0xFF, 0xFF, 0x07]) = (2047, 255) ∧
      columnBytes 2 256 = [0x00, 0x01] ∧ columnBytes 1 256 = [0x00] ∧ columnBytes 2 4319 = [0xDF, 0x10] := by decide

/-! ## Vectors: steps of the machine -/

/-- 3.6, request 1: `OP` = 0x1F. -/
theorem test_step_refuses :
    after (step (State.reset.withRequest { Request.zero with op := 0x1F })) (fun t => (t.res, t.run, t.trace)) =
      some (5, .ready, []) := by decide +kernel
/-- R251: a reset of the block after a command and two of five address cycles, 12 engine steps into them (log 1). -/
theorem test_block_reset_cuts :
    let s : State := { block [] [] [] with
      slice := some 12,
      host := [.request { Request.zero with op := 0x02, addr := page1, alen := 5 }, .blockReset] }
    after (step s) (fun t => (t.run, observe Pins.reset t.trace)) =
        some (.running, [.cycle (.address 0x00), .cycle (.address 0x00)]) ∧
      (after (step s) step).bind (fun a => after a (fun t => (t.run, t.pins, observe Pins.reset t.trace))) =
        some (.ready, Pins.reset, [.cycle (.address 0x00), .cycle (.address 0x00)]) := by decide +kernel
/-- V-BR-1 inside an operation that hangs. -/
theorem test_block_reset :
    after (step { block [] [] [] with run := .running, todo := [.pollRb .untilReady], host := [.blockReset] })
      (fun t => (t.run, t.todo, t.pins)) = some (.ready, [], Pins.reset) := by decide +kernel

/-! ## Witnesses: a state and operands that meet the hypotheses of each statement -/

theorem witness_DecodeIgnoresUnreadFlags :
    (0x08 : Byte).extractLsb' 5 3 = 0 ∧ (0x00 : Byte).extractLsb' 5 3 = 0 ∧
      (0x08 : Byte) &&& flagsRead 0x10 = (0x00 : Byte) &&& flagsRead 0x10 :=
  by decide
theorem witness_DecoderRejectsByName :
    0x1F ∉ operationCodes ∧ 0x22 ∈ operationCodes ∧ (0x20 : Byte).extractLsb' 5 3 ≠ 0 ∧ (0x1F : Byte).extractLsb' 5 3 = 0 :=
  by decide
theorem witness_RejectedRequestSetsCodeFive :
    (block [] [] []).run = .ready ∧ decode { Request.zero with op := 0xFF } = .error (.illegalOp 0xFF) ∧
      decode { Request.zero with op := 0x10, flags := 0x80 } = .error (.reservedFlags 0x80) :=
  by decide +kernel
theorem witness_OutOfRangeOperandsRefused :
    (block [] [] []).run = .ready ∧
      (Instr.sendAddresses .zero 9).wellFormed (block [] [] []).mode (block [] [] []).maxBurst = false :=
  by decide +kernel
theorem witness_WellFormedRequestsAccepted :
    (block [] [] []).run = .ready ∧ (block [] [] []).pins.isIdle = true ∧ Memory.wf (block [] [] []).rxbuf = true ∧
      (block [] [] []).idleOrder.complete = true ∧ (block [] [] []).slice = none ∧
      (Instr.pageRead page1 8 4320 true (some 2)).wellFormed (block [] [] []).mode (block [] [] []).maxBurst = true :=
  by decide +kernel
theorem witness_StepRunsTheDecodedRequest :
    ((block [] [] []).withRequest { Request.zero with op := 0x1A }).run = .ready ∧
      ((block [] [] []).withRequest { Request.zero with op := 0x1A }).host = [.request { Request.zero with op := 0x1A }] ∧
      decode { Request.zero with op := 0x1A } = .ok .readStatus :=
  by decide +kernel
theorem witness_ReadyBlockWaitsForTheHost :
    (block [] [] []).run = .ready ∧ (block [] [] []).host = [] :=
  by decide +kernel
/-- A block that waits inside READ_DATA, its pins as R236 says, with a request of the host waiting. -/
def waiting : State :=
  { block [false] [] [] with
    run := .running, todo := .pollRb .untilReady :: dataOutAsync 0 ++ idleSteps .listing ++ [.done resOk],
    pins := { Pins.reset with dqDir := .inp }, host := [.request Request.zero] }
theorem witness_RunningBlockTakesNoRequest :
    waiting.run = .running ∧ waiting.host.head? ≠ some .blockReset ∧
      ({ waiting with slice := some 0 } : State).slice = some 0 ∧
      after (step waiting) (fun t => t.host) = some [.request Request.zero] :=
  by decide +kernel
theorem witness_BlockResetFromAnyState :
    ({ waiting with host := [.blockReset] } : State).host = .blockReset :: [] :=
  by decide
theorem witness_HostWritesConfiguration :
    (block [] [] []).run = .ready ∧
      ({ block [] [] [] with host := [.setMode .toggle] } : State).host = .setMode .toggle :: [] ∧
      ({ block [] [] [] with host := [.setTiming times] } : State).host = .setTiming times :: [] :=
  by decide +kernel
theorem witness_IdleReturnsToIdleState :
    ({ block [] [] [] with idleOrder := backwards } : State).run = .ready ∧
      ({ block [] [] [] with idleOrder := backwards } : State).idleOrder.complete = true ∧
      ({ block [] [] [] with idleOrder := backwards } : State).slice = none ∧
      ({ block [] [] [] with idleOrder := backwards } : State).pins.isIdle = true :=
  by decide +kernel
theorem witness_SendCommandGivesOneCommandCycle :
    (block [] [] []).run = .ready ∧ (block [] [] []).pins.isIdle = true ∧ Memory.wf (block [] [] []).rxbuf = true ∧
      (block [] [] []).idleOrder.complete = true ∧ (block [] [] []).slice = none :=
  by decide +kernel
theorem witness_SendAddressesGivesAddressCycles :
    (block [] [] []).run = .ready ∧ (block [] [] []).pins.isIdle = true ∧ Memory.wf (block [] [] []).rxbuf = true ∧
      (block [] [] []).idleOrder.complete = true ∧ (block [] [] []).slice = none ∧ (8 : BitVec 4).toNat ≤ 8 :=
  by decide +kernel
theorem witness_SendDataAsyncGivesDataCycles :
    (block [] [] []).run = .ready ∧ (block [] [] []).pins.isIdle = true ∧ Memory.wf (block [] [] []).rxbuf = true ∧
      (block [] [] []).idleOrder.complete = true ∧ (block [] [] []).slice = none ∧
      (block [] [] []).mode = .async ∧ (4320 : Word32).toNat ≤ (block [] [] []).maxBurst :=
  by decide +kernel
theorem witness_SendDataToggleGivesStrobeTransitions :
    (block [true] [] [] [] .toggle).run = .ready ∧ (block [true] [] [] [] .toggle).pins.isIdle = true ∧ Memory.wf (block [true] [] [] [] .toggle).rxbuf = true ∧
      (block [true] [] [] [] .toggle).idleOrder.complete = true ∧ (block [true] [] [] [] .toggle).slice = none ∧
      (block [true] [] [] [] .toggle).mode = .toggle ∧
      (4320 : Word32).toNat ≤ (block [true] [] [] [] .toggle).maxBurst ∧ (4320 : Word32).toNat % 2 = 0 ∧
      (block [true] [] [] [] .toggle).pins.dqs = false ∧ (block [true] [] [] [] .toggle).pins.dqsc = true :=
  by decide +kernel
theorem witness_ReadDataAsyncSamplesEachPulse :
    (block [false, true] [] []).run = .ready ∧ (block [false, true] [] []).pins.isIdle = true ∧ Memory.wf (block [false, true] [] []).rxbuf = true ∧
      (block [false, true] [] []).idleOrder.complete = true ∧ (block [false, true] [] []).slice = none ∧
      (block [false, true] [] []).mode = .async ∧ (4320 : Word32).toNat ≤ (block [false, true] [] []).maxBurst ∧
      (block [false, true] [] []).env.rb = List.replicate 1 false ++ true :: [] :=
  by decide +kernel
theorem witness_ReadDataToggleSamplesEachEdge :
    (block [true] [] [] [] .toggle).run = .ready ∧ (block [true] [] [] [] .toggle).pins.isIdle = true ∧ Memory.wf (block [true] [] [] [] .toggle).rxbuf = true ∧
      (block [true] [] [] [] .toggle).idleOrder.complete = true ∧ (block [true] [] [] [] .toggle).slice = none ∧
      (block [true] [] [] [] .toggle).mode = .toggle ∧
      (4319 : Word32).toNat ≤ (block [true] [] [] [] .toggle).maxBurst ∧
      (block [true] [] [] [] .toggle).env.rb = List.replicate 0 false ++ true :: [] :=
  by decide +kernel
theorem witness_WaitReadySamplesUntilReady :
    (block [false, true] [] []).run = .ready ∧ (block [false, true] [] []).pins.isIdle = true ∧ Memory.wf (block [false, true] [] []).rxbuf = true ∧
      (block [false, true] [] []).idleOrder.complete = true ∧ (block [false, true] [] []).slice = none ∧
      (block [false, true] [] []).env.rb = List.replicate 1 false ++ true :: [] :=
  by decide +kernel
theorem witness_BoundedWaitReadyOrTimeout :
    (block [false, true] [] [0, 9]).run = .ready ∧ (block [false, true] [] [0, 9]).pins.isIdle = true ∧ Memory.wf (block [false, true] [] [0, 9]).rxbuf = true ∧
      (block [false, true] [] [0, 9]).idleOrder.complete = true ∧ (block [false, true] [] [0, 9]).slice = none ∧
      risingFrom (block [false, true] [] [0, 9]).clkLast [0, 9] = true ∧ allWithin 0 10 [9] = true ∧
      (block [false, true] [] [0, 9]).env.rb = List.replicate 1 false ++ true :: [] ∧
      (block [false, true] [] [0, 9]).env.clk = 0 :: [9] ++ [] :=
  by decide +kernel
theorem witness_BoundedWaitReadyOrTimeout_late :
    (block [false, false] [] [0, 9, 10]).run = .ready ∧ (block [false, false] [] [0, 9, 10]).pins.isIdle = true ∧ Memory.wf (block [false, false] [] [0, 9, 10]).rxbuf = true ∧
      (block [false, false] [] [0, 9, 10]).idleOrder.complete = true ∧ (block [false, false] [] [0, 9, 10]).slice = none ∧
      risingFrom (block [false, false] [] [0, 9, 10]).clkLast [0, 9] = true ∧ allWithin 0 10 [9] = true ∧
      ([9].getLastD (0 : Word64)).toNat ≤ (10 : Word64).toNat ∧ (10 : Word64).toNat ≤ (10 : Word64).toNat - (0 : Word64).toNat ∧
      (block [false, false] [] [0, 9, 10]).env.rb = List.replicate 2 false ++ [] ∧
      (block [false, false] [] [0, 9, 10]).env.clk = 0 :: [9] ++ 10 :: [] :=
  by decide +kernel
theorem witness_EnableEraseRaisesWp :
    (block [] [] []).run = .ready ∧ (block [] [] []).slice = none :=
  by decide +kernel
theorem witness_DisableEraseLowersWp :
    (block [] [] []).run = .ready ∧ (block [] [] []).slice = none ∧ (block [] [] []).pins.wp = false :=
  by decide +kernel
theorem witness_ResetSendsTheResetCommand :
    (block [false, true] [] []).run = .ready ∧ (block [false, true] [] []).pins.isIdle = true ∧ Memory.wf (block [false, true] [] []).rxbuf = true ∧
      (block [false, true] [] []).idleOrder.complete = true ∧ (block [false, true] [] []).slice = none ∧
      (block [false, true] [] []).env.rb = readyAfter 1 ++ [] :=
  by decide +kernel
theorem witness_ReadIdReadsTheId :
    (block [false, true] [] []).run = .ready ∧ (block [false, true] [] []).pins.isIdle = true ∧ Memory.wf (block [false, true] [] []).rxbuf = true ∧
      (block [false, true] [] []).idleOrder.complete = true ∧ (block [false, true] [] []).slice = none ∧
      (block [false, true] [] []).env.rb = readyAfter 1 ++ [] ∧ (4320 : Word32).toNat ≤ (block [false, true] [] []).maxBurst :=
  by decide +kernel
theorem witness_ReadUniqueIdReadsThirtyTwoBytes :
    (block [false, true, true] [] []).run = .ready ∧ (block [false, true, true] [] []).pins.isIdle = true ∧ Memory.wf (block [false, true, true] [] []).rxbuf = true ∧
      (block [false, true, true] [] []).idleOrder.complete = true ∧ (block [false, true, true] [] []).slice = none ∧
      (block [false, true, true] [] []).env.rb = readyAfter 1 ++ (readyAfter 0 ++ []) :=
  by decide +kernel
theorem witness_ReadParameterPageBulk :
    (block [false, true, true] [] []).run = .ready ∧ (block [false, true, true] [] []).pins.isIdle = true ∧ Memory.wf (block [false, true, true] [] []).rxbuf = true ∧
      (block [false, true, true] [] []).idleOrder.complete = true ∧ (block [false, true, true] [] []).slice = none ∧
      (block [false, true, true] [] []).env.rb = readyAfter 1 ++ (readyAfter 0 ++ []) :=
  by decide +kernel
/-- R/B# answers for a wait, a read and 255 one-byte reads. -/
def manyReads : State := block (readyAfter 1 ++ (readyAfter 0 ++ (readyRuns (List.replicate 255 0) ++ []))) [] []
theorem witness_ReadParameterPageBytewise :
    (manyReads).run = .ready ∧ (manyReads).pins.isIdle = true ∧ Memory.wf (manyReads).rxbuf = true ∧
      (manyReads).idleOrder.complete = true ∧ (manyReads).slice = none ∧
      ((2 : BitVec 2) = 1 ∨ (2 : BitVec 2) = 2) ∧ (List.replicate 255 0).length = 255 ∧
      manyReads.env.rb = readyAfter 1 ++ (readyAfter 0 ++ (readyRuns (List.replicate 255 0) ++ [])) :=
  by decide +kernel
theorem witness_PageReadBulk :
    (block [false, true, true] [] []).run = .ready ∧ (block [false, true, true] [] []).pins.isIdle = true ∧ Memory.wf (block [false, true, true] [] []).rxbuf = true ∧
      (block [false, true, true] [] []).idleOrder.complete = true ∧ (block [false, true, true] [] []).slice = none ∧
      (block [false, true, true] [] []).env.rb = readyAfter 1 ++ (readyAfter 0 ++ []) ∧ (8 : BitVec 4).toNat ≤ 8 ∧ (4320 : Word32).toNat ≤ (block [false, true, true] [] []).maxBurst :=
  by decide +kernel
theorem witness_PageReadBytewise :
    (block [false, true, true] [] []).run = .ready ∧ (block [false, true, true] [] []).pins.isIdle = true ∧ Memory.wf (block [false, true, true] [] []).rxbuf = true ∧
      (block [false, true, true] [] []).idleOrder.complete = true ∧ (block [false, true, true] [] []).slice = none ∧ (8 : BitVec 4).toNat ≤ 8 ∧
      (2 : Word32).toNat ≤ (block [false, true, true] [] []).maxBurst ∧ ((1 : BitVec 2) = 1 ∨ (1 : BitVec 2) = 2) ∧
      (block [true, true, false, true] [] []).env.rb = readyAfter 0 ++ (readyRuns [0, 1] ++ []) ∧ [0, 1].length = (2 : Word32).toNat :=
  by decide +kernel
theorem witness_ChangeReadColumnSendsTheColumn :
    (block [] [] []).run = .ready ∧ (block [] [] []).pins.isIdle = true ∧ Memory.wf (block [] [] []).rxbuf = true ∧
      (block [] [] []).idleOrder.complete = true ∧ (block [] [] []).slice = none ∧ (8 : BitVec 4).toNat ≤ 8 :=
  by decide +kernel
theorem witness_PageProgramSendsAddressDataConfirm :
    (block [false, true] [] []).run = .ready ∧ (block [false, true] [] []).pins.isIdle = true ∧ Memory.wf (block [false, true] [] []).rxbuf = true ∧
      (block [false, true] [] []).idleOrder.complete = true ∧ (block [false, true] [] []).slice = none ∧
      (block [false, true] [] []).env.rb = readyAfter 1 ++ [] ∧ (8 : BitVec 4).toNat ≤ 8 ∧ (4320 : Word32).toNat ≤ (block [false, true] [] []).maxBurst ∧
      ((block [false, true] [] []).mode = .toggle → (4320 : Word32).toNat % 2 = 0) :=
  by decide +kernel
theorem witness_BlockEraseSendsRowAndConfirm :
    (block [false, true] [] []).run = .ready ∧ (block [false, true] [] []).pins.isIdle = true ∧ Memory.wf (block [false, true] [] []).rxbuf = true ∧
      (block [false, true] [] []).idleOrder.complete = true ∧ (block [false, true] [] []).slice = none ∧
      (block [false, true] [] []).env.rb = readyAfter 1 ++ [] ∧ (8 : BitVec 4).toNat ≤ 8 :=
  by decide +kernel
theorem witness_SetFeaturesSendsFourBytes :
    (block [false, true] [] []).run = .ready ∧ (block [false, true] [] []).pins.isIdle = true ∧ Memory.wf (block [false, true] [] []).rxbuf = true ∧
      (block [false, true] [] []).idleOrder.complete = true ∧ (block [false, true] [] []).slice = none ∧
      (block [false, true] [] []).env.rb = readyAfter 1 ++ [] :=
  by decide +kernel
theorem witness_GetFeaturesReadsFourBytes :
    (block [false, true, true] [] []).run = .ready ∧ (block [false, true, true] [] []).pins.isIdle = true ∧ Memory.wf (block [false, true, true] [] []).rxbuf = true ∧
      (block [false, true, true] [] []).idleOrder.complete = true ∧ (block [false, true, true] [] []).slice = none ∧
      (block [false, true, true] [] []).env.rb = readyAfter 1 ++ (readyAfter 0 ++ []) :=
  by decide +kernel
theorem witness_ReadStatusReadsOneByte :
    (block [false, true] [] []).run = .ready ∧ (block [false, true] [] []).pins.isIdle = true ∧ Memory.wf (block [false, true] [] []).rxbuf = true ∧
      (block [false, true] [] []).idleOrder.complete = true ∧ (block [false, true] [] []).slice = none ∧
      (block [false, true] [] []).env.rb = readyAfter 1 ++ [] :=
  by decide +kernel
theorem witness_PartialEraseAborts :
    (block [false, true] [] []).run = .ready ∧ (block [false, true] [] []).pins.isIdle = true ∧ Memory.wf (block [false, true] [] []).rxbuf = true ∧
      (block [false, true] [] []).idleOrder.complete = true ∧ (block [false, true] [] []).slice = none ∧
      (block [false, true] [] []).env.rb = readyAfter 1 ++ [] ∧ (8 : BitVec 4).toNat ≤ 8 :=
  by decide +kernel
theorem witness_TlcSubpageProgramPicksTheConfirm :
    (block [false, true] [] []).run = .ready ∧ (block [false, true] [] []).pins.isIdle = true ∧ Memory.wf (block [false, true] [] []).rxbuf = true ∧
      (block [false, true] [] []).idleOrder.complete = true ∧ (block [false, true] [] []).slice = none ∧
      (block [false, true] [] []).env.rb = readyAfter 1 ++ [] ∧ (8 : BitVec 4).toNat ≤ 8 ∧ (4320 : Word32).toNat ≤ (block [false, true] [] []).maxBurst ∧
      ((block [false, true] [] []).mode = .toggle → (4320 : Word32).toNat % 2 = 0) ∧ ((3 : Byte) = 1 ∨ (3 : Byte) = 2 ∨ (3 : Byte) = 3) :=
  by decide +kernel
theorem witness_PartialProgramAborts :
    (block [false, true] [] []).run = .ready ∧ (block [false, true] [] []).pins.isIdle = true ∧ Memory.wf (block [false, true] [] []).rxbuf = true ∧
      (block [false, true] [] []).idleOrder.complete = true ∧ (block [false, true] [] []).slice = none ∧
      (block [false, true] [] []).env.rb = readyAfter 1 ++ [] ∧ (8 : BitVec 4).toNat ≤ 8 ∧ (4320 : Word32).toNat ≤ (block [false, true] [] []).maxBurst ∧
      ((block [false, true] [] []).mode = .toggle → (4320 : Word32).toNat % 2 = 0) :=
  by decide +kernel
/-- The window of V-MB-1. -/
def windowSeen : BusyWindow :=
  { origin := 1000, before := [1500], start := 2000, during := [2000900], late := none, stop := 2001000 }
/-- A window that reaches the default complete bound. -/
def windowLate : BusyWindow :=
  { origin := 1000, before := [], start := 2000, during := [], late := some 1000002000, stop := 1000002000 }
theorem witness_MeasureBusyRecordsTheWindow :
    (block (windowSeen.rb ++ []) [] (windowSeen.clk ++ [])).run = .ready ∧ (block (windowSeen.rb ++ []) [] (windowSeen.clk ++ [])).pins.isIdle = true ∧ Memory.wf (block (windowSeen.rb ++ []) [] (windowSeen.clk ++ [])).rxbuf = true ∧
      (block (windowSeen.rb ++ []) [] (windowSeen.clk ++ [])).idleOrder.complete = true ∧ (block (windowSeen.rb ++ []) [] (windowSeen.clk ++ [])).slice = none ∧
      (block (windowSeen.rb ++ []) [] (windowSeen.clk ++ [])).env.rb = windowSeen.rb ++ [] ∧
      (block (windowSeen.rb ++ []) [] (windowSeen.clk ++ [])).env.clk = windowSeen.clk ++ [] ∧
      risingFrom (block (windowSeen.rb ++ []) [] (windowSeen.clk ++ [])).clkLast windowSeen.clk = true ∧ windowSeen.within 5000000 1000000000 = true :=
  by decide +kernel
theorem witness_MeasureBusyRecordsTheWindow_late :
    (block (windowLate.rb ++ []) [] (windowLate.clk ++ [])).run = .ready ∧ (block (windowLate.rb ++ []) [] (windowLate.clk ++ [])).pins.isIdle = true ∧ Memory.wf (block (windowLate.rb ++ []) [] (windowLate.clk ++ [])).rxbuf = true ∧
      (block (windowLate.rb ++ []) [] (windowLate.clk ++ [])).idleOrder.complete = true ∧ (block (windowLate.rb ++ []) [] (windowLate.clk ++ [])).slice = none ∧
      (block (windowLate.rb ++ []) [] (windowLate.clk ++ [])).env.rb = windowLate.rb ++ [] ∧
      (block (windowLate.rb ++ []) [] (windowLate.clk ++ [])).env.clk = windowLate.clk ++ [] ∧
      risingFrom (block (windowLate.rb ++ []) [] (windowLate.clk ++ [])).clkLast windowLate.clk = true ∧ windowLate.within 5000000 1000000000 = true :=
  by decide +kernel
theorem witness_MeasureBusyNeverSeen :
    (block [true, true] [] [0, 4999999, 5000000]).run = .ready ∧ (block [true, true] [] [0, 4999999, 5000000]).pins.isIdle = true ∧ Memory.wf (block [true, true] [] [0, 4999999, 5000000]).rxbuf = true ∧
      (block [true, true] [] [0, 4999999, 5000000]).idleOrder.complete = true ∧ (block [true, true] [] [0, 4999999, 5000000]).slice = none ∧
      (block [true, true] [] [0, 4999999, 5000000]).env.rb = List.replicate 2 true ++ [] ∧
      (block [true, true] [] [0, 4999999, 5000000]).env.clk = 0 :: ([4999999] ++ 5000000 :: []) ∧
      risingFrom (block [true, true] [] [0, 4999999, 5000000]).clkLast (0 :: ([4999999] ++ [5000000])) = true ∧
      allWithin 0 5000000 [4999999] = true ∧ (5000000 : Word64).toNat ≤ (5000000 : Word64).toNat - (0 : Word64).toNat :=
  by decide +kernel
theorem witness_TimedReadMeasuresFetchesAndReadsStatus :
    (block (readyAfter 1 ++ (windowSeen.rb ++ ((readyAfter 1 ++ (readyAfter 0 ++ []))))) [] (0 :: [500] ++ (windowSeen.clk ++ []))).run = .ready ∧ (block (readyAfter 1 ++ (windowSeen.rb ++ ((readyAfter 1 ++ (readyAfter 0 ++ []))))) [] (0 :: [500] ++ (windowSeen.clk ++ []))).pins.isIdle = true ∧ Memory.wf (block (readyAfter 1 ++ (windowSeen.rb ++ ((readyAfter 1 ++ (readyAfter 0 ++ []))))) [] (0 :: [500] ++ (windowSeen.clk ++ []))).rxbuf = true ∧
      (block (readyAfter 1 ++ (windowSeen.rb ++ ((readyAfter 1 ++ (readyAfter 0 ++ []))))) [] (0 :: [500] ++ (windowSeen.clk ++ []))).idleOrder.complete = true ∧ (block (readyAfter 1 ++ (windowSeen.rb ++ ((readyAfter 1 ++ (readyAfter 0 ++ []))))) [] (0 :: [500] ++ (windowSeen.clk ++ []))).slice = none ∧
      (block (readyAfter 1 ++ (windowSeen.rb ++ ((readyAfter 1 ++ (readyAfter 0 ++ []))))) [] (0 :: [500] ++ (windowSeen.clk ++ []))).env.rb =
        readyAfter [(500 : Word64)].length ++ (windowSeen.rb ++ ((readyAfter 1 ++ (readyAfter 0 ++ [])))) ∧
      (block (readyAfter 1 ++ (windowSeen.rb ++ ((readyAfter 1 ++ (readyAfter 0 ++ []))))) [] (0 :: [500] ++ (windowSeen.clk ++ []))).env.clk = 0 :: [500] ++ (windowSeen.clk ++ []) ∧
      risingFrom (block (readyAfter 1 ++ (windowSeen.rb ++ ((readyAfter 1 ++ (readyAfter 0 ++ []))))) [] (0 :: [500] ++ (windowSeen.clk ++ []))).clkLast (0 :: [500] ++ windowSeen.clk) = true ∧
      allWithin 0 5000000 [500] = true ∧ windowSeen.within 5000000 1000000000 = true ∧ (8 : BitVec 4).toNat ≤ 8 ∧
      (4320 : Word32).toNat ≤ (block (readyAfter 1 ++ (windowSeen.rb ++ ((readyAfter 1 ++ (readyAfter 0 ++ []))))) [] (0 :: [500] ++ (windowSeen.clk ++ []))).maxBurst ∧ (4320 : Word32).toNat + 1 < 2 ^ 32 :=
  by decide +kernel
theorem witness_TimedReadMeasuresFetchesAndReadsStatus_late :
    (block (readyAfter 1 ++ (windowLate.rb ++ ((readyAfter 1 ++ (readyAfter 0 ++ []))))) [] (0 :: [500] ++ (windowLate.clk ++ []))).run = .ready ∧ (block (readyAfter 1 ++ (windowLate.rb ++ ((readyAfter 1 ++ (readyAfter 0 ++ []))))) [] (0 :: [500] ++ (windowLate.clk ++ []))).pins.isIdle = true ∧ Memory.wf (block (readyAfter 1 ++ (windowLate.rb ++ ((readyAfter 1 ++ (readyAfter 0 ++ []))))) [] (0 :: [500] ++ (windowLate.clk ++ []))).rxbuf = true ∧
      (block (readyAfter 1 ++ (windowLate.rb ++ ((readyAfter 1 ++ (readyAfter 0 ++ []))))) [] (0 :: [500] ++ (windowLate.clk ++ []))).idleOrder.complete = true ∧ (block (readyAfter 1 ++ (windowLate.rb ++ ((readyAfter 1 ++ (readyAfter 0 ++ []))))) [] (0 :: [500] ++ (windowLate.clk ++ []))).slice = none ∧
      (block (readyAfter 1 ++ (windowLate.rb ++ ((readyAfter 1 ++ (readyAfter 0 ++ []))))) [] (0 :: [500] ++ (windowLate.clk ++ []))).env.rb =
        readyAfter [(500 : Word64)].length ++ (windowLate.rb ++ ((readyAfter 1 ++ (readyAfter 0 ++ [])))) ∧
      (block (readyAfter 1 ++ (windowLate.rb ++ ((readyAfter 1 ++ (readyAfter 0 ++ []))))) [] (0 :: [500] ++ (windowLate.clk ++ []))).env.clk = 0 :: [500] ++ (windowLate.clk ++ []) ∧
      risingFrom (block (readyAfter 1 ++ (windowLate.rb ++ ((readyAfter 1 ++ (readyAfter 0 ++ []))))) [] (0 :: [500] ++ (windowLate.clk ++ []))).clkLast (0 :: [500] ++ windowLate.clk) = true ∧
      allWithin 0 5000000 [500] = true ∧ windowLate.within 5000000 1000000000 = true ∧ (8 : BitVec 4).toNat ≤ 8 ∧
      (4320 : Word32).toNat ≤ (block (readyAfter 1 ++ (windowLate.rb ++ ((readyAfter 1 ++ (readyAfter 0 ++ []))))) [] (0 :: [500] ++ (windowLate.clk ++ []))).maxBurst ∧ (4320 : Word32).toNat + 1 < 2 ^ 32 :=
  by decide +kernel
theorem witness_TimedProgramMeasuresAndReadsStatus :
    (block (readyAfter 1 ++ (windowSeen.rb ++ (readyAfter 0 ++ []))) [] (0 :: [500] ++ (windowSeen.clk ++ []))).run = .ready ∧ (block (readyAfter 1 ++ (windowSeen.rb ++ (readyAfter 0 ++ []))) [] (0 :: [500] ++ (windowSeen.clk ++ []))).pins.isIdle = true ∧ Memory.wf (block (readyAfter 1 ++ (windowSeen.rb ++ (readyAfter 0 ++ []))) [] (0 :: [500] ++ (windowSeen.clk ++ []))).rxbuf = true ∧
      (block (readyAfter 1 ++ (windowSeen.rb ++ (readyAfter 0 ++ []))) [] (0 :: [500] ++ (windowSeen.clk ++ []))).idleOrder.complete = true ∧ (block (readyAfter 1 ++ (windowSeen.rb ++ (readyAfter 0 ++ []))) [] (0 :: [500] ++ (windowSeen.clk ++ []))).slice = none ∧
      (block (readyAfter 1 ++ (windowSeen.rb ++ (readyAfter 0 ++ []))) [] (0 :: [500] ++ (windowSeen.clk ++ []))).env.rb =
        readyAfter [(500 : Word64)].length ++ (windowSeen.rb ++ (readyAfter 0 ++ [])) ∧
      (block (readyAfter 1 ++ (windowSeen.rb ++ (readyAfter 0 ++ []))) [] (0 :: [500] ++ (windowSeen.clk ++ []))).env.clk = 0 :: [500] ++ (windowSeen.clk ++ []) ∧
      risingFrom (block (readyAfter 1 ++ (windowSeen.rb ++ (readyAfter 0 ++ []))) [] (0 :: [500] ++ (windowSeen.clk ++ []))).clkLast (0 :: [500] ++ windowSeen.clk) = true ∧
      allWithin 0 5000000 [500] = true ∧ windowSeen.within 5000000 1000000000 = true ∧ (8 : BitVec 4).toNat ≤ 8 ∧
      (4320 : Word32).toNat ≤ (block (readyAfter 1 ++ (windowSeen.rb ++ (readyAfter 0 ++ []))) [] (0 :: [500] ++ (windowSeen.clk ++ []))).maxBurst ∧ (4320 : Word32).toNat % 2 = 0 :=
  by decide +kernel
theorem witness_TimedProgramMeasuresAndReadsStatus_late :
    (block (readyAfter 1 ++ (windowLate.rb ++ (readyAfter 0 ++ []))) [] (0 :: [500] ++ (windowLate.clk ++ []))).run = .ready ∧ (block (readyAfter 1 ++ (windowLate.rb ++ (readyAfter 0 ++ []))) [] (0 :: [500] ++ (windowLate.clk ++ []))).pins.isIdle = true ∧ Memory.wf (block (readyAfter 1 ++ (windowLate.rb ++ (readyAfter 0 ++ []))) [] (0 :: [500] ++ (windowLate.clk ++ []))).rxbuf = true ∧
      (block (readyAfter 1 ++ (windowLate.rb ++ (readyAfter 0 ++ []))) [] (0 :: [500] ++ (windowLate.clk ++ []))).idleOrder.complete = true ∧ (block (readyAfter 1 ++ (windowLate.rb ++ (readyAfter 0 ++ []))) [] (0 :: [500] ++ (windowLate.clk ++ []))).slice = none ∧
      (block (readyAfter 1 ++ (windowLate.rb ++ (readyAfter 0 ++ []))) [] (0 :: [500] ++ (windowLate.clk ++ []))).env.rb =
        readyAfter [(500 : Word64)].length ++ (windowLate.rb ++ (readyAfter 0 ++ [])) ∧
      (block (readyAfter 1 ++ (windowLate.rb ++ (readyAfter 0 ++ []))) [] (0 :: [500] ++ (windowLate.clk ++ []))).env.clk = 0 :: [500] ++ (windowLate.clk ++ []) ∧
      risingFrom (block (readyAfter 1 ++ (windowLate.rb ++ (readyAfter 0 ++ []))) [] (0 :: [500] ++ (windowLate.clk ++ []))).clkLast (0 :: [500] ++ windowLate.clk) = true ∧
      allWithin 0 5000000 [500] = true ∧ windowLate.within 5000000 1000000000 = true ∧ (8 : BitVec 4).toNat ≤ 8 ∧
      (4320 : Word32).toNat ≤ (block (readyAfter 1 ++ (windowLate.rb ++ (readyAfter 0 ++ []))) [] (0 :: [500] ++ (windowLate.clk ++ []))).maxBurst ∧ (4320 : Word32).toNat % 2 = 0 :=
  by decide +kernel
theorem witness_TimedEraseMeasuresAndReadsStatus :
    (block (readyAfter 1 ++ (windowSeen.rb ++ (readyAfter 0 ++ []))) [] (0 :: [500] ++ (windowSeen.clk ++ []))).run = .ready ∧ (block (readyAfter 1 ++ (windowSeen.rb ++ (readyAfter 0 ++ []))) [] (0 :: [500] ++ (windowSeen.clk ++ []))).pins.isIdle = true ∧ Memory.wf (block (readyAfter 1 ++ (windowSeen.rb ++ (readyAfter 0 ++ []))) [] (0 :: [500] ++ (windowSeen.clk ++ []))).rxbuf = true ∧
      (block (readyAfter 1 ++ (windowSeen.rb ++ (readyAfter 0 ++ []))) [] (0 :: [500] ++ (windowSeen.clk ++ []))).idleOrder.complete = true ∧ (block (readyAfter 1 ++ (windowSeen.rb ++ (readyAfter 0 ++ []))) [] (0 :: [500] ++ (windowSeen.clk ++ []))).slice = none ∧
      (block (readyAfter 1 ++ (windowSeen.rb ++ (readyAfter 0 ++ []))) [] (0 :: [500] ++ (windowSeen.clk ++ []))).env.rb =
        readyAfter [(500 : Word64)].length ++ (windowSeen.rb ++ (readyAfter 0 ++ [])) ∧
      (block (readyAfter 1 ++ (windowSeen.rb ++ (readyAfter 0 ++ []))) [] (0 :: [500] ++ (windowSeen.clk ++ []))).env.clk = 0 :: [500] ++ (windowSeen.clk ++ []) ∧
      risingFrom (block (readyAfter 1 ++ (windowSeen.rb ++ (readyAfter 0 ++ []))) [] (0 :: [500] ++ (windowSeen.clk ++ []))).clkLast (0 :: [500] ++ windowSeen.clk) = true ∧
      allWithin 0 5000000 [500] = true ∧ windowSeen.within 5000000 1000000000 = true ∧ (8 : BitVec 4).toNat ≤ 8 :=
  by decide +kernel
theorem witness_TimedEraseMeasuresAndReadsStatus_late :
    (block (readyAfter 1 ++ (windowLate.rb ++ (readyAfter 0 ++ []))) [] (0 :: [500] ++ (windowLate.clk ++ []))).run = .ready ∧ (block (readyAfter 1 ++ (windowLate.rb ++ (readyAfter 0 ++ []))) [] (0 :: [500] ++ (windowLate.clk ++ []))).pins.isIdle = true ∧ Memory.wf (block (readyAfter 1 ++ (windowLate.rb ++ (readyAfter 0 ++ []))) [] (0 :: [500] ++ (windowLate.clk ++ []))).rxbuf = true ∧
      (block (readyAfter 1 ++ (windowLate.rb ++ (readyAfter 0 ++ []))) [] (0 :: [500] ++ (windowLate.clk ++ []))).idleOrder.complete = true ∧ (block (readyAfter 1 ++ (windowLate.rb ++ (readyAfter 0 ++ []))) [] (0 :: [500] ++ (windowLate.clk ++ []))).slice = none ∧
      (block (readyAfter 1 ++ (windowLate.rb ++ (readyAfter 0 ++ []))) [] (0 :: [500] ++ (windowLate.clk ++ []))).env.rb =
        readyAfter [(500 : Word64)].length ++ (windowLate.rb ++ (readyAfter 0 ++ [])) ∧
      (block (readyAfter 1 ++ (windowLate.rb ++ (readyAfter 0 ++ []))) [] (0 :: [500] ++ (windowLate.clk ++ []))).env.clk = 0 :: [500] ++ (windowLate.clk ++ []) ∧
      risingFrom (block (readyAfter 1 ++ (windowLate.rb ++ (readyAfter 0 ++ []))) [] (0 :: [500] ++ (windowLate.clk ++ []))).clkLast (0 :: [500] ++ windowLate.clk) = true ∧
      allWithin 0 5000000 [500] = true ∧ windowLate.within 5000000 1000000000 = true ∧ (8 : BitVec 4).toNat ≤ 8 :=
  by decide +kernel
theorem witness_GuardFailureRaisesCodeTwo :
    (block [false, false] [] [0, 4999999, 5000000]).run = .ready ∧ (block [false, false] [] [0, 4999999, 5000000]).pins.isIdle = true ∧ Memory.wf (block [false, false] [] [0, 4999999, 5000000]).rxbuf = true ∧
      (block [false, false] [] [0, 4999999, 5000000]).idleOrder.complete = true ∧ (block [false, false] [] [0, 4999999, 5000000]).slice = none ∧ (Instr.tErase row2 8 0 0).family = .timed ∧
      (Instr.tErase row2 8 0 0).wellFormed (block [false, false] [] [0, 4999999, 5000000]).mode (block [false, false] [] [0, 4999999, 5000000]).maxBurst = true ∧
      mayWriteWp (Instr.tErase row2 8 0 0) = true ∧
      (block [false, false] [] [0, 4999999, 5000000]).env.rb = List.replicate 2 false ++ [] ∧
      (block [false, false] [] [0, 4999999, 5000000]).env.clk = 0 :: ([4999999] ++ 5000000 :: []) ∧
      risingFrom (block [false, false] [] [0, 4999999, 5000000]).clkLast (0 :: ([4999999] ++ [5000000])) = true ∧
      allWithin 0 5000000 [4999999] = true ∧ 5000000 ≤ (5000000 : Word64).toNat - (0 : Word64).toNat :=
  by decide +kernel
theorem witness_GuardFailureRaisesCodeTwo_read :
    (block [false, false] [] [0, 4999999, 5000000]).run = .ready ∧ (block [false, false] [] [0, 4999999, 5000000]).pins.isIdle = true ∧ Memory.wf (block [false, false] [] [0, 4999999, 5000000]).rxbuf = true ∧
      (block [false, false] [] [0, 4999999, 5000000]).idleOrder.complete = true ∧ (block [false, false] [] [0, 4999999, 5000000]).slice = none ∧ (Instr.tRead row2 8 4320 true true 0 0).family = .timed ∧
      (Instr.tRead row2 8 4320 true true 0 0).wellFormed (block [false, false] [] [0, 4999999, 5000000]).mode (block [false, false] [] [0, 4999999, 5000000]).maxBurst = true ∧
      mayWriteWp (Instr.tRead row2 8 4320 true true 0 0) = false ∧
      (block [false, false] [] [0, 4999999, 5000000]).env.rb = List.replicate 2 false ++ [] ∧
      (block [false, false] [] [0, 4999999, 5000000]).env.clk = 0 :: ([4999999] ++ 5000000 :: []) ∧
      risingFrom (block [false, false] [] [0, 4999999, 5000000]).clkLast (0 :: ([4999999] ++ [5000000])) = true ∧
      allWithin 0 5000000 [4999999] = true ∧ 5000000 ≤ (5000000 : Word64).toNat - (0 : Word64).toNat :=
  by decide +kernel
theorem witness_BusyNeverSeenEndsEarly :
    (block (readyAfter 1 ++ (List.replicate 2 true ++ [])) [] (0 :: [7] ++ (8 :: ([9] ++ 5000008 :: [])))).run = .ready ∧ (block (readyAfter 1 ++ (List.replicate 2 true ++ [])) [] (0 :: [7] ++ (8 :: ([9] ++ 5000008 :: [])))).pins.isIdle = true ∧ Memory.wf (block (readyAfter 1 ++ (List.replicate 2 true ++ [])) [] (0 :: [7] ++ (8 :: ([9] ++ 5000008 :: [])))).rxbuf = true ∧
      (block (readyAfter 1 ++ (List.replicate 2 true ++ [])) [] (0 :: [7] ++ (8 :: ([9] ++ 5000008 :: [])))).idleOrder.complete = true ∧ (block (readyAfter 1 ++ (List.replicate 2 true ++ [])) [] (0 :: [7] ++ (8 :: ([9] ++ 5000008 :: [])))).slice = none ∧ (8 : BitVec 4).toNat ≤ 8 ∧
      (block (readyAfter 1 ++ (List.replicate 2 true ++ [])) [] (0 :: [7] ++ (8 :: ([9] ++ 5000008 :: [])))).env.rb =
        readyAfter [(7 : Word64)].length ++ (List.replicate 2 true ++ []) ∧
      (block (readyAfter 1 ++ (List.replicate 2 true ++ [])) [] (0 :: [7] ++ (8 :: ([9] ++ 5000008 :: [])))).env.clk = 0 :: [7] ++ (8 :: ([9] ++ 5000008 :: [])) ∧
      risingFrom (block (readyAfter 1 ++ (List.replicate 2 true ++ [])) [] (0 :: [7] ++ (8 :: ([9] ++ 5000008 :: [])))).clkLast (0 :: [7] ++ (8 :: ([9] ++ [5000008]))) = true ∧
      allWithin 0 5000000 [7] = true ∧ allWithin 8 5000000 [9] = true ∧
      (5000000 : Word64).toNat ≤ (5000008 : Word64).toNat - (8 : Word64).toNat ∧
      (4320 : Word32).toNat ≤ (block (readyAfter 1 ++ (List.replicate 2 true ++ [])) [] (0 :: [7] ++ (8 :: ([9] ++ 5000008 :: [])))).maxBurst ∧ (4320 : Word32).toNat % 2 = 0 :=
  by decide +kernel
/-- The invariant holds while an operation runs, too. -/
theorem waiting_sound : waiting.Sound := by constructor <;> decide +kernel
theorem waiting_fits : waiting.RxFits := by constructor <;> decide +kernel
theorem witness_StepKeepsTheStateSound : waiting.Sound ∧ (after (step waiting) State.run).isSome = true :=
  ⟨waiting_sound, by decide +kernel⟩
theorem witness_SoundStatesAlwaysStep : waiting.Sound := waiting_sound
theorem witness_ReceivedBytesFit : waiting.RxFits ∧ (after (step waiting) State.run).isSome = true :=
  ⟨waiting_fits, by decide +kernel⟩
theorem witness_StepsDriveTheBusLegally :
    waiting.Sound ∧ waiting.host.head? ≠ some .blockReset ∧ (after (step waiting) State.run).isSome = true :=
  ⟨waiting_sound, by decide +kernel, by decide +kernel⟩
theorem witness_WpWrittenOnlyByFourOperations :
    (block [true] [] []).run = .ready ∧ mayWriteWp .reset = false ∧
      (after (exec .reset (block [true] [] [])) State.run).isSome = true ∧
      waiting.run = .running ∧ (∀ m ∈ waiting.todo, m.leavesWp = true) ∧ (after (resume waiting) State.run).isSome = true :=
  by decide +kernel
/-- A T_ERASE that waits in its status read, WP high. -/
def erasing : State :=
  { block [true] [0xE0] [] with
    run := .running, todo := .pollRb .untilReady :: .w .wp false :: [.done resOk],
    pins := { Pins.reset with wp := true } }
theorem witness_TimedOperationsLeaveWpLow :
    timedErase.run = .ready ∧ (Instr.tErase row2 3 0 0).family = .timed ∧ mayWriteWp (.tErase row2 3 0 0) = true ∧
      (Instr.tErase row2 3 0 0).wellFormed timedErase.mode timedErase.maxBurst = true ∧
      after (exec (.tErase row2 3 0 0) timedErase) State.run = some .ready ∧
      erasing.run = .running ∧ protectedAtExit erasing.pins.wp erasing.todo = true ∧
      after (resume erasing) State.run = some .ready :=
  by decide +kernel
theorem witness_ClockNeverGoesBack :
    (after (step { timedErase with host := [.request (encode (.tErase row2 3 0 0))] }) State.clkLast).isSome = true :=
  by decide +kernel
theorem witness_HangKeepsWaiting :
    (block [false, false] [] []).run = .ready ∧ (block [false, false] [] []).pins.isIdle = true ∧ Memory.wf (block [false, false] [] []).rxbuf = true ∧
      (block [false, false] [] []).idleOrder.complete = true ∧ (block [false, false] [] []).slice = none ∧
      (block [false, false] [] []).env.rb = List.replicate 2 false ∧
      (4320 : Word32).toNat ≤ (block [false, false] [] []).maxBurst ∧
      waiting.run = .running ∧ waiting.todo.head? = some (.pollRb .untilReady) ∧ waiting.env.rb = [false] :=
  by decide +kernel
theorem witness_DrivingAByteSetsItsLines :
    mapM.valid = true :=
  by decide +kernel
theorem witness_RowAddressRoundTrip :
    255 < 256 ∧ 2047 * 256 + 255 < 2 ^ (8 * 3) :=
  by decide +kernel
theorem witness_SucceededPredicate :
    (block [false, true] [] [0, 1, 2]).run = .ready ∧
      (after (exec (.measureBusy 0 0) (block [false, true] [] [0, 1, 2])) State.run).isSome = true ∧
      waiting.run = .running ∧ waiting.record.readyFlag = false ∧ waiting.record.passFlag = false ∧
      Micro.decodeStatus ∉ waiting.todo ∧ (after (resume waiting) State.run).isSome = true :=
  by decide +kernel
theorem witness_ResultCodesByOperation :
    (block [false] [] [0, 9]).run = .ready ∧
      after (exec (.waitReady (some 5)) (block [false] [] [0, 9])) (fun t => (t.run, t.res)) = some (.ready, 7) ∧
      erasing.run = .running ∧ after (resume erasing) (fun t => (t.run, t.res)) = some (.ready, 0) :=
  by decide +kernel

end Sys2Proof.Machine.Tests
end

section
/-! SUPPORT. What one engine step, one settling run and one step of the machine can do, and the checks and steps of every
operation. An invariant of the machine is proved from `engineStep_effect`, `step_effect` and `exec_eq_request`. -/

namespace Sys2Proof.Machine

/-! ### Where an entry leaves the list of steps -/

/-- `Continues m rest td`: an entry `m` that writes no pin, with `rest` after it, can leave the list of steps at `td`. The
polling loops of R125, R128 and R200 go round; a bounded one can also end the operation early (R206). -/
inductive Continues : Micro → List Micro → List Micro → Prop
  | on (m : Micro) (rest : List Micro) : Continues m rest rest
  | again (k : Poll) (rest : List Micro) : Continues (.pollRb k) rest (.pollRb k :: rest)
  | toClock (k : Poll) (rest : List Micro) : Continues (.pollRb k) rest (.pollClk k :: rest)
  | round (k : Poll) (rest : List Micro) : Continues (.pollClk k) rest (.pollRb k :: rest)
  | early (k : Poll) (rest : List Micro) (code : Byte) (h : k.earlyCode = some code) :
      Continues (.pollClk k) rest (lowerWp k.raisedWp ++ [.done code])

/-- The sample of a loop is an R/B# sample, after which the engine goes on or stays in the loop. -/
theorem pollSample_continues (k : Poll) (s : State) :
    ∃ td q, Continues (.pollRb k) s.todo td ∧ pollSample k s = { s.sampleRb with todo := td, seq := q } := by
  rcases pollSample_cases k s with ⟨-, q, h⟩ | ⟨-, -, h⟩ | ⟨-, -, h⟩
  · exact ⟨_, q, .on .., h⟩
  · exact ⟨_, _, .again .., h⟩
  · exact ⟨_, _, .toClock .., h⟩

/-- At its bound a loop goes on with the record changed, or leaves with its early code. -/
theorem Poll.onExpiry_continues (k : Poll) (s : State) :
    ∃ td r, Continues (.pollClk k) s.todo td ∧ k.onExpiry s = { s with todo := td, record := r } := by
  cases k with
  | untilReady => exact ⟨_, _, .on .., rfl⟩
  | waitBound _ => exact ⟨_, _, .early _ _ _ rfl, rfl⟩
  | guardReady _ => exact ⟨_, _, .early _ _ _ rfl, rfl⟩
  | busyAssert _ _ => exact ⟨_, _, .early _ _ _ rfl, rfl⟩
  | busyComplete _ => exact ⟨_, _, .on .., rfl⟩

/-- The clock read of a loop is a clock read, after which the engine goes on, goes round or leaves early. -/
theorem pollClock_continues (k : Poll) (s : State) :
    ∃ td q r, Continues (.pollClk k) s.todo td ∧
      pollClock k s = { s.readClk with todo := td, seq := q, record := r } := by
  rcases pollClock_cases k s with ⟨-, h⟩ | ⟨-, h⟩
  · obtain ⟨td, r, hc, he⟩ := k.onExpiry_continues s.readClk
    exact ⟨td, _, r, hc, h.trans he⟩
  · exact ⟨_, _, _, .round .., h⟩

/-! ### One engine step -/

/-- An entry that reads the clock (R38). -/
def Micro.readsClock : Micro → Bool
  | .clkStart | .clkBusyStart | .clkBusyEnd | .pollClk _ => true
  | _ => false

/-- An entry that is an assignment between bus steps (R132). -/
def Micro.assigns : Micro → Bool
  | .setIdx _ | .busySeen | .setFetched | .decodeStatus => true
  | _ => false

theorem Micro.event_of_readsClock {m : Micro} (hm : m.readsClock = true) (tx : Memory) (p : Pins) :
    m.event tx p = none := by
  cases m <;> cases hm <;> rfl

theorem Micro.event_of_assigns {m : Micro} (hm : m.assigns = true) (tx : Memory) (p : Pins) : m.event tx p = none := by
  cases m <;> cases hm <;> rfl

/-- What one engine step did, by the state it changed. -/
inductive EngineEffect (s t : State) : Prop
  /-- the operation is over -/
  | ends (code : Byte) (hs : (s.todo = [] ∧ code = resOk) ∨ ∃ rest, s.todo = .done code :: rest)
      (ht : t = s.complete code)
  /-- an event that needs no sample -/
  | drives (m : Micro) (rest : List Micro) (e : Event) (hs : s.todo = m :: rest)
      (he : m.event s.opnd.txbuf s.pins = some e) (ht : t = ({ s with todo := rest }).emit e)
  /-- a DQ sample -/
  | samplesDq (rest : List Micro) (hs : s.todo = .sampleDQ :: rest) (ht : t = ({ s with todo := rest }).sampleDq)
  /-- an R/B# sample -/
  | samplesRb (k : Poll) (rest td : List Micro) (q : Nat) (hs : s.todo = .pollRb k :: rest)
      (hc : Continues (.pollRb k) rest td) (ht : t = { s.sampleRb with todo := td, seq := q })
  /-- a clock read -/
  | readsClock (m : Micro) (rest td : List Micro) (q : Nat) (r : TimingRecord) (a b : Word64) (hs : s.todo = m :: rest)
      (hm : m.readsClock = true) (hc : Continues m rest td)
      (ht : t = { s.readClk with todo := td, seq := q, record := r, tStart := a, busyStart := b })
  /-- an assignment between bus steps -/
  | assigns (m : Micro) (rest : List Micro) (x : Nat) (r : TimingRecord) (f : Bool) (hs : s.todo = m :: rest)
      (hm : m.assigns = true) (ht : t = { s with todo := rest, idx := x, record := r, fetched := f })

theorem engineStep_effect {s t : State} (h : engineStep s = .next t) : EngineEffect s t := by
  rcases engineStep_cases h with ⟨hs, ht⟩ | ⟨m, rest, hs, hm⟩
  · exact .ends _ (.inl ⟨hs, rfl⟩) ht
  rcases hm with ⟨e, he, ht⟩ | ⟨rfl, -, ht⟩ | ⟨rfl, ht⟩ | ⟨k, rfl, ht⟩ | ⟨k, rfl, ht⟩ | ⟨rfl, ht⟩ | ⟨rfl, ht⟩ |
    ⟨k, rfl, ht⟩ | ⟨rfl, ht⟩ | ⟨rfl, ht⟩ | ⟨rfl, ht⟩ | ⟨code, rfl, ht⟩
  · exact .drives _ _ e hs he ht
  · exact .samplesDq _ hs ht
  · exact .readsClock _ _ _ _ _ _ _ hs rfl (.on ..) ht
  · obtain ⟨td, q, hc, hp⟩ := pollSample_continues k { s with todo := rest }
    exact .samplesRb k rest td q hs hc (ht.trans hp)
  · obtain ⟨td, q, r, hc, hp⟩ := pollClock_continues k { s with todo := rest }
    exact .readsClock _ _ td q r _ _ hs rfl hc (ht.trans hp)
  · exact .readsClock _ _ _ _ _ _ _ hs rfl (.on ..) ht
  · exact .readsClock _ _ _ _ _ _ _ hs rfl (.on ..) ht
  · exact .assigns _ _ _ _ _ hs rfl ht
  · exact .assigns _ _ _ _ _ hs rfl ht
  · exact .assigns _ _ _ _ _ hs rfl ht
  · exact .assigns _ _ _ _ _ hs rfl ht
  · exact .ends code (.inr ⟨rest, hs⟩) ht

/-- No engine step touches the host's side (R74). -/
theorem engineStep_hostSideKept {s t : State} (h : engineStep s = .next t) : HostSideKept s t := by
  cases engineStep_effect h <;> subst t <;> exact ⟨rfl, rfl, rfl, rfl, rfl, rfl, rfl⟩

/-! ### Settling, going on, and the moves of the host -/

theorem running_of_unsettled {s : State} (h : s.settled = false) : s.run = .running := by
  cases hr : s.run with
  | running => rfl
  | ready => simp [State.settled, hr] at h

/-- What every engine step of a RUNNING block keeps, going on keeps. -/
theorem resume_induction {P : State → Prop}
    (keep : ∀ {s t : State}, P s → s.run = .running → engineStep s = .next t → P t) {s t : State} (hs : P s)
    (hr : s.run = .running) (h : resume s = .next t) : P t := by
  unfold resume at h
  split at h
  · next u he => exact drive_induction (fun hp hu => keep hp (running_of_unsettled hu)) (keep hs hr he) h
  · cases h
  · cases h

/-- What holds after the acceptance of a request and is kept by every engine step of a RUNNING block holds after the
request, unless it is refused. -/
theorem request_induction {P : State → Prop} {checks : List (Option OperandCheck)} {steps : List Micro}
    (keep : ∀ {s t : State}, P s → s.run = .running → engineStep s = .next t → P t) {s t : State} (refused : P s.refuse)
    (accepted : firstFailure checks = none → P (s.accept (steps ++ [.done resOk])))
    (h : request checks steps s = .next t) : P t := by
  obtain ⟨-, ⟨-, rfl⟩ | ⟨hc, ha⟩⟩ := request_cases h
  · exact refused
  · exact drive_induction (fun hp hu => keep hp (running_of_unsettled hu)) (accepted hc) ha

/-- What one step of the machine did, by who moved. -/
inductive StepEffect (s t : State) : Prop
  | blockReset (rest : List HostMove) (hs : s.host = .blockReset :: rest)
      (ht : t = ({ s with host := rest }).blockReset)
  | resumes (hr : s.run = .running) (ht : resume s = .next t)
  | requests (r : Request) (rest : List HostMove) (i : Instr) (hr : s.run = .ready) (hs : s.host = .request r :: rest)
      (hd : decode r = .ok i) (ht : exec i (({ s with host := rest }).present r) = .next t)
  | rejects (r : Request) (rest : List HostMove) (hr : s.run = .ready) (hs : s.host = .request r :: rest)
      (ht : t = (({ s with host := rest }).present r).refuse)
  | setsMode (m : Mode) (rest : List HostMove) (hr : s.run = .ready) (hs : s.host = .setMode m :: rest)
      (ht : t = { s with host := rest, mode := m })
  | setsTiming (v : Timing) (rest : List HostMove) (hr : s.run = .ready) (hs : s.host = .setTiming v :: rest)
      (ht : t = { s with host := rest, timing := v })
  | setsSlice (n : Option Nat) (rest : List HostMove) (hr : s.run = .ready) (hs : s.host = .setSlice n :: rest)
      (ht : t = { s with host := rest, slice := n })
  | waits (hr : s.run = .ready) (hs : s.host = []) (ht : t = s)

theorem step_blockReset {s : State} {rest : List HostMove} (hs : s.host = .blockReset :: rest) :
    step s = .next ({ s with host := rest }).blockReset := by
  simp [step, hs]

theorem step_running {s : State} (hr : s.run = .running) (hs : ∀ rest, s.host ≠ .blockReset :: rest) :
    step s = resume s := by
  unfold step
  split
  · next rest h => exact absurd h (hs rest)
  · simp [hr]

theorem step_request {s : State} {r : Request} {rest : List HostMove} {i : Instr} (hr : s.run = .ready)
    (hs : s.host = .request r :: rest) (hd : decode r = .ok i) :
    step s = exec i (({ s with host := rest }).present r) := by
  simp [step, hs, hr, hd]

theorem step_rejected {s : State} {r : Request} {rest : List HostMove} {e : DecodeError} (hr : s.run = .ready)
    (hs : s.host = .request r :: rest) (hd : decode r = .error e) :
    step s = .next (({ s with host := rest }).present r).refuse := by
  simp [step, hs, hr, hd]

theorem step_setMode {s : State} {m : Mode} {rest : List HostMove} (hr : s.run = .ready)
    (hs : s.host = .setMode m :: rest) : step s = .next { s with host := rest, mode := m } := by
  simp [step, hs, hr]

theorem step_setTiming {s : State} {v : Timing} {rest : List HostMove} (hr : s.run = .ready)
    (hs : s.host = .setTiming v :: rest) : step s = .next { s with host := rest, timing := v } := by
  simp [step, hs, hr]

theorem step_setSlice {s : State} {n : Option Nat} {rest : List HostMove} (hr : s.run = .ready)
    (hs : s.host = .setSlice n :: rest) : step s = .next { s with host := rest, slice := n } := by
  simp [step, hs, hr]

theorem step_waits {s : State} (hr : s.run = .ready) (hs : s.host = []) : step s = .next s := by
  simp [step, hs, hr]

theorem step_effect {s t : State} (h : step s = .next t) : StepEffect s t := by
  by_cases hb : ∃ rest, s.host = .blockReset :: rest
  · obtain ⟨rest, hs⟩ := hb
    rw [step_blockReset hs] at h; cases h; exact .blockReset rest hs rfl
  cases hr : s.run with
  | running => rw [step_running hr (not_exists.1 hb)] at h; exact .resumes hr h
  | ready =>
    cases hs : s.host with
    | nil => rw [step_waits hr hs] at h; cases h; exact .waits hr hs rfl
    | cons move rest =>
      cases move with
      | request r =>
        cases hd : decode r with
        | ok i => rw [step_request hr hs hd] at h; exact .requests r rest i hr hs hd h
        | error e => rw [step_rejected hr hs hd] at h; cases h; exact .rejects r rest hr hs rfl
      | setMode m => rw [step_setMode hr hs] at h; cases h; exact .setsMode m rest hr hs rfl
      | setTiming v => rw [step_setTiming hr hs] at h; cases h; exact .setsTiming v rest hr hs rfl
      | blockReset => exact absurd ⟨rest, hs⟩ hb
      | setSlice n => rw [step_setSlice hr hs] at h; cases h; exact .setsSlice n rest hr hs rfl

/-! ### The checks and the steps of each operation -/

/-- The operand checks of an operation, in the order of R226. -/
def checksOf (i : Instr) (s : State) : List (Option OperandCheck) :=
  match i with
  | .idle | .sendCommand _ | .waitReady _ | .enableErase | .disableErase | .measureBusy _ _ | .reset | .readUniqueId
  | .setFeatures _ | .getFeatures _ | .readStatus => []
  | .sendAddresses _ n | .changeReadColumn _ n | .blockErase _ n | .partialErase _ n _ | .tErase _ n _ _ => [checkAlen n]
  | .sendData c => [checkCount s c, checkParity s c]
  | .readData c | .readId _ c => [checkCount s c]
  | .readParameterPage _ bytewise => [checkCcyc bytewise]
  | .pageRead _ n c _ bytewise => [checkAlen n, checkCount s c, checkCcyc bytewise]
  | .pageProgram _ n c _ | .partialProgram _ n c _ _ | .tProgram _ n c _ _ _ =>
      [checkAlen n, checkCount s c, checkParity s c]
  | .tlcSubpageProgram x _ n c => [checkSubpage x, checkAlen n, checkCount s c, checkParity s c]
  | .tRead _ n c _ _ _ _ => [checkAlen n, checkCount s c]

/-- The steps of an operation up to its `RES <- 0`, with the operands and the configuration of its acceptance (R74). -/
def stepsOf (i : Instr) (s : State) : List Micro :=
  let io := s.idleOrder
  let mode := s.mode
  let tm := s.timing
  match i with
  | .idle => idleSteps io
  | .sendCommand b => commandSteps io b
  | .sendAddresses a n => addressSteps io (addrBytes a n)
  | .sendData c => dataInSteps io mode c.toNat
  | .readData c => dataOutSteps io tm mode c.toNat
  | .waitReady none => waitReadySteps
  | .waitReady (some t) => boundedWaitSteps (.waitBound t)
  | .enableErase => [.w .wp true]
  | .disableErase => [.w .wp false]
  | .measureBusy ta tc => measureBusySteps ta tc false
  | .reset => commandSteps io cmdReset ++ busyWaitSteps tm
  | .readId b c =>
      commandSteps io cmdReadId ++ addressSteps io [b] ++ delay tm .tWHR ++ dataOutSteps io tm mode c.toNat
  | .readUniqueId =>
      commandSteps io cmdReadUniqueId ++ addressSteps io [addrUniqueId] ++ busyWaitSteps tm ++
        dataOutSteps io tm mode uniqueIdBytes
  | .readParameterPage jedec bytewise =>
      commandSteps io cmdReadParameterPage ++ addressSteps io [parameterPageAddr jedec] ++ busyWaitSteps tm ++
        (match bytewise with
          | none => dataOutSteps io tm mode parameterPageBytes
          | some c =>
              dataOutSteps io tm mode 1 ++ burst (columnByteSteps io tm mode c) 1 (parameterPageBytes - 1))
  | .pageRead a n c pre00 bytewise =>
      readGoSteps io pre00 (addrBytes a n) ++ busyWaitSteps tm ++
        (match bytewise with
          | none => dataOutSteps io tm mode c.toNat
          | some cc => burst (columnByteSteps io tm mode cc) 0 c.toNat)
  | .changeReadColumn a n => changeColumnSteps io tm (addrBytes a n)
  | .pageProgram a n c k => programGoSteps io tm mode (addrBytes a n) c.toNat k ++ busyWaitSteps tm
  | .blockErase a n => eraseGoSteps io (addrBytes a n) ++ busyWaitSteps tm
  | .setFeatures f =>
      commandSteps io cmdSetFeatures ++ addressSteps io [f] ++ delay tm .tADL ++ dataInSteps io mode featureBytes ++
        busyWaitSteps tm
  | .getFeatures f =>
      commandSteps io cmdGetFeatures ++ addressSteps io [f] ++ busyWaitSteps tm ++ dataOutSteps io tm mode featureBytes
  | .readStatus => statusSteps io tm mode
  | .partialErase a n l => eraseGoSteps io (addrBytes a n) ++ abortSteps io tm l
  | .tlcSubpageProgram x a n c =>
      commandSteps io x ++ programGoSteps io tm mode (addrBytes a n) c.toNat (tlcConfirm x) ++ busyWaitSteps tm
  | .partialProgram a n c k l => programGoSteps io tm mode (addrBytes a n) c.toNat k ++ abortSteps io tm l
  | .tRead a n c pre00 fetch ta tc =>
      prologueSteps false ++ readGoSteps io pre00 (addrBytes a n) ++ measureBusySteps ta tc false ++
        (if fetch then dataOutSteps io tm mode c.toNat ++ [.setFetched] else []) ++ epilogueSteps io tm mode false
  | .tProgram a n c k ta tc =>
      prologueSteps true ++ programGoSteps io tm mode (addrBytes a n) c.toNat k ++ measureBusySteps ta tc true ++
        epilogueSteps io tm mode true
  | .tErase a n ta tc =>
      prologueSteps true ++ eraseGoSteps io (addrBytes a n) ++ measureBusySteps ta tc true ++ epilogueSteps io tm mode true

/-- The meaning of every operation is the request with its checks and its steps (R132). -/
theorem exec_eq_request (i : Instr) (s : State) : exec i s = request (checksOf i s) (stepsOf i s) s := by
  cases i
  case waitReady limit => cases limit <;> rfl
  all_goals rfl

end Sys2Proof.Machine
end

section
/-! PROOFS. What a run of the engine adds to the trace: clock reads that rise, and no write of WP. -/

namespace Sys2Proof.Machine

/-! ### The clock (O55) -/

/-- The trace grew by a run of events whose clock reads rise, and the last one is kept (R38). -/
def ClockKept (s t : State) : Prop :=
  ∃ es, t.trace = s.trace ++ es ∧ risingFrom s.clkLast (clockReads es) = true ∧
    t.clkLast = lastRead s.clkLast (clockReads es)

theorem lastRead_eq_getLastD (last : Word64) (ts : List Word64) : lastRead last ts = ts.getLastD last := by
  induction ts generalizing last with
  | nil => rfl
  | cons t ts ih => rw [lastRead_cons, ih, List.getLastD_cons]

theorem clockReads_append (es fs : List Event) : clockReads (es ++ fs) = clockReads es ++ clockReads fs := by
  induction es with
  | nil => rfl
  | cons e es ih => cases e <;> simp [clockReads, ih]

theorem ClockKept.of_silent {s t : State} (htr : t.trace = s.trace) (hc : t.clkLast = s.clkLast) : ClockKept s t :=
  ⟨[], by simp [htr], rfl, hc⟩

theorem ClockKept.trans {s t u : State} (h : ClockKept s t) (h' : ClockKept t u) : ClockKept s u := by
  obtain ⟨es, htr, hrise, hlast⟩ := h
  obtain ⟨fs, htr', hrise', hlast'⟩ := h'
  rw [hlast] at hrise' hlast'
  refine ⟨es ++ fs, by rw [htr', htr, List.append_assoc], ?_, ?_⟩
  · rw [clockReads_append, risingFrom_append, hrise, hrise']; rfl
  · rw [clockReads_append, lastRead_append, hlast']

/-- Only the sampling of the clock is a clock read. -/
theorem clockReads_of_event {m : Micro} {tx : Memory} {p : Pins} {e : Event} (h : m.event tx p = some e) :
    clockReads [e] = [] := by
  cases m <;> simp only [Micro.event, reduceCtorEq, Option.some.injEq] at h <;> subst h <;> rfl

theorem engineStep_clockKept {s t : State} (h : engineStep s = .next t) : ClockKept s t := by
  cases engineStep_effect h with
  | ends code hs ht => subst ht; exact .of_silent rfl rfl
  | drives m rest e hs he ht =>
    subst ht
    have hc := clockReads_of_event he
    exact ⟨[e], rfl, by rw [hc]; rfl, by rw [hc]; rfl⟩
  | samplesDq rest hs ht => subst ht; exact ⟨[.dq _], rfl, rfl, rfl⟩
  | samplesRb k rest td q hs hc ht => subst ht; exact ⟨[.rb _], rfl, rfl, rfl⟩
  | readsClock m rest td q r a b hs hm hc ht =>
    subst ht
    exact ⟨[.clk s.nextClk], rfl, by simp [clockReads, risingFrom, s.clkLast_le_nextClk], rfl⟩
  | assigns m rest x r f hs hm ht => subst ht; exact .of_silent rfl rfl

theorem exec_clockKept {i : Instr} {s t : State} (h : exec i s = .next t) : ClockKept s t := by
  rw [exec_eq_request] at h
  exact request_induction (P := ClockKept s) (fun hp _ he => hp.trans (engineStep_clockKept he))
    (.of_silent rfl rfl) (fun _ => .of_silent rfl rfl) h

theorem step_clockKept {s t : State} (h : step s = .next t) : ClockKept s t := by
  cases step_effect h with
  | resumes hr ht =>
    exact resume_induction (P := ClockKept s) (fun hp _ he => hp.trans (engineStep_clockKept he))
      (.of_silent rfl rfl) hr ht
  | requests r rest i hr hs hd ht =>
    have hpresent : ClockKept s (({ s with host := rest }).present r) := .of_silent rfl rfl
    exact hpresent.trans (exec_clockKept ht)
  | blockReset rest hs ht => subst ht; exact .of_silent rfl rfl
  | rejects r rest hr hs ht => subst ht; exact .of_silent rfl rfl
  | setsMode m rest hr hs ht => subst ht; exact .of_silent rfl rfl
  | setsTiming v rest hr hs ht => subst ht; exact .of_silent rfl rfl
  | setsSlice n rest hr hs ht => subst ht; exact .of_silent rfl rfl
  | waits hr hs ht => subst ht; exact .of_silent rfl rfl

/-- Settles O55: every engine step keeps the clock law (R38), so a run of them does. -/
theorem clockNeverGoesBack : Obligations.ClockNeverGoesBack := by
  intro s t h
  obtain ⟨es, htr, hrise, hlast⟩ := step_clockKept h
  exact ⟨es, htr, hrise, by rw [hlast, lastRead_eq_getLastD]⟩

/-! ### Writes of WP (O53) -/

/-- WP has its level and no write of WP is in the trace since `s`; the steps left leave WP alone (R32). -/
structure WpKept (s t : State) : Prop where
  level : t.pins.wp = s.pins.wp
  unwritten : ∃ es, t.trace = s.trace ++ es ∧ ∀ e ∈ es, writesWp e = false
  left : t.run = .running → ∀ m ∈ t.todo, m.leavesWp = true

/-- The trace grows by one event that does not write WP. -/
theorem unwritten_append {s t u : State} {e : Event} (h : ∃ es, t.trace = s.trace ++ es ∧ ∀ e ∈ es, writesWp e = false)
    (he : writesWp e = false) (hu : u.trace = t.trace ++ [e]) :
    ∃ es, u.trace = s.trace ++ es ∧ ∀ e ∈ es, writesWp e = false := by
  obtain ⟨es, htr, hes⟩ := h
  refine ⟨es ++ [e], by rw [hu, htr, List.append_assoc], fun x hx => ?_⟩
  rcases List.mem_append.1 hx with hx | hx
  · exact hes x hx
  · rw [List.mem_singleton.1 hx]; exact he

theorem writesWp_of_leavesWp {m : Micro} {tx : Memory} {p : Pins} {e : Event} (hm : m.leavesWp = true)
    (he : m.event tx p = some e) : writesWp e = false ∧ (e.onPins p).wp = p.wp := by
  cases m <;> simp only [Micro.event, reduceCtorEq, Option.some.injEq] at he <;> subst he
  case w q v =>
    cases q with
    | wp => cases hm
    | _ => exact ⟨rfl, rfl⟩
  case wInv q =>
    cases q with
    | wp => cases hm
    | _ => exact ⟨rfl, rfl⟩
  all_goals exact ⟨rfl, rfl⟩

/-- A loop that raised no WP goes on to entries that leave WP alone. -/
theorem Continues.leavesWp {m : Micro} {rest td : List Micro} (h : Continues m rest td)
    (hl : ∀ x ∈ m :: rest, x.leavesWp = true) : ∀ x ∈ td, x.leavesWp = true := by
  obtain ⟨hm, hrest⟩ := List.forall_mem_cons.1 hl
  cases h with
  | on => exact hrest
  | again k => exact List.forall_mem_cons.2 ⟨hm, hrest⟩
  | toClock k => exact List.forall_mem_cons.2 ⟨hm, hrest⟩
  | round k => exact List.forall_mem_cons.2 ⟨hm, hrest⟩
  | early k rest code he =>
    have hk : k.raisedWp = false := by simpa [Micro.leavesWp] using hm
    rw [hk]
    exact List.forall_mem_cons.2 ⟨rfl, by simp⟩

theorem WpKept.engineStep {s t u : State} (hw : WpKept s t) (hr : t.run = .running) (h : engineStep t = .next u) :
    WpKept s u := by
  have hleft := hw.left hr
  cases engineStep_effect h with
  | ends code hs hu => subst hu; exact ⟨hw.level, hw.unwritten, nofun⟩
  | drives m rest e hs he hu =>
    subst hu
    rw [hs, List.forall_mem_cons] at hleft
    obtain ⟨hm, hrest⟩ := hleft
    obtain ⟨hnot, hlevel⟩ := writesWp_of_leavesWp hm he
    exact ⟨hlevel.trans hw.level, unwritten_append hw.unwritten hnot rfl, fun _ => hrest⟩
  | samplesDq rest hs hu =>
    subst hu
    rw [hs, List.forall_mem_cons] at hleft
    exact ⟨hw.level, unwritten_append (e := .dq _) hw.unwritten rfl rfl, fun _ => hleft.2⟩
  | samplesRb k rest td q hs hc hu =>
    subst hu
    rw [hs] at hleft
    exact ⟨hw.level, unwritten_append (e := .rb _) hw.unwritten rfl rfl, fun _ => hc.leavesWp hleft⟩
  | readsClock m rest td q r a b hs hm hc hu =>
    subst hu
    rw [hs] at hleft
    exact ⟨hw.level, unwritten_append (e := .clk _) hw.unwritten rfl rfl, fun _ => hc.leavesWp hleft⟩
  | assigns m rest x r f hs hm hu =>
    subst hu
    rw [hs, List.forall_mem_cons] at hleft
    exact ⟨hw.level, hw.unwritten, fun _ => hleft.2⟩

/-- A run of steps none of which writes WP. -/
def LeavesWp (l : List Micro) : Prop := ∀ m ∈ l, m.leavesWp = true

@[simp] theorem leavesWp_nil : LeavesWp [] := nofun

@[simp] theorem leavesWp_append (l r : List Micro) : LeavesWp (l ++ r) ↔ LeavesWp l ∧ LeavesWp r :=
  List.forall_mem_append

@[simp] theorem leavesWp_cons (m : Micro) (l : List Micro) : LeavesWp (m :: l) ↔ m.leavesWp = true ∧ LeavesWp l :=
  List.forall_mem_cons

@[simp] theorem leavesWp_idleWrite (a : IdleWrite) : LeavesWp a.steps := by
  cases a <;> simp [IdleWrite.steps, driveByte, Micro.leavesWp]

@[simp] theorem leavesWp_idle (io : IdleOrder) : LeavesWp (idleSteps io) :=
  List.forall_mem_flatMap.2 fun a _ => leavesWp_idleWrite a

@[simp] theorem leavesWp_command (io : IdleOrder) (b : Byte) : LeavesWp (commandSteps io b) := by
  simp [commandSteps, driveByte, pulseWe, Micro.leavesWp]

theorem leavesWp_addressCycles (k : Nat) (bs : List Byte) : LeavesWp (addressCycles k bs) := by
  induction bs generalizing k with
  | nil => simp [addressCycles]
  | cons b bs ih => simp [addressCycles, driveByte, pulseWe, Micro.leavesWp, ih]

@[simp] theorem leavesWp_address (io : IdleOrder) (bs : List Byte) : LeavesWp (addressSteps io bs) := by
  simp [addressSteps, leavesWp_addressCycles, Micro.leavesWp]

theorem leavesWp_burst {body : Nat → List Micro} (h : ∀ k, LeavesWp (body k)) (k n : Nat) : LeavesWp (burst body k n) := by
  induction n generalizing k with
  | zero => simp [burst]
  | succ n ih => simp [burst, h, ih]

theorem leavesWp_dataInAsync (k : Nat) : LeavesWp (dataInAsync k) := by
  simp [dataInAsync, driveTx, pulseWe, Micro.leavesWp]

theorem leavesWp_dataInToggle (k : Nat) : LeavesWp (dataInToggle k) := by
  simp [dataInToggle, driveTx, Micro.leavesWp]

@[simp] theorem leavesWp_dataIn (io : IdleOrder) (mode : Mode) (n : Nat) : LeavesWp (dataInSteps io mode n) := by
  cases mode with
  | async => simp [dataInSteps, leavesWp_burst leavesWp_dataInAsync, Micro.leavesWp]
  | toggle => simp [dataInSteps, leavesWp_burst leavesWp_dataInToggle, Micro.leavesWp]

theorem leavesWp_dataOutAsync (k : Nat) : LeavesWp (dataOutAsync k) := by simp [dataOutAsync, Micro.leavesWp]

theorem leavesWp_dataOutToggle (k : Nat) : LeavesWp (dataOutToggle k) := by simp [dataOutToggle, Micro.leavesWp]

@[simp] theorem leavesWp_dataOut (io : IdleOrder) (tm : Timing) (mode : Mode) (n : Nat) :
    LeavesWp (dataOutSteps io tm mode n) := by
  cases mode with
  | async => simp [dataOutSteps, leavesWp_burst leavesWp_dataOutAsync, Micro.leavesWp, Poll.raisedWp]
  | toggle => simp [dataOutSteps, leavesWp_burst leavesWp_dataOutToggle, Micro.leavesWp, Poll.raisedWp]

@[simp] theorem leavesWp_delay (tm : Timing) (p : TimingParam) : LeavesWp (delay tm p) := by simp [delay, Micro.leavesWp]

@[simp] theorem leavesWp_busyWait (tm : Timing) : LeavesWp (busyWaitSteps tm) := by
  simp [busyWaitSteps, waitReadySteps, Micro.leavesWp, Poll.raisedWp]

@[simp] theorem leavesWp_changeColumn (io : IdleOrder) (tm : Timing) (col : List Byte) :
    LeavesWp (changeColumnSteps io tm col) := by
  simp [changeColumnSteps]

@[simp] theorem leavesWp_readGo (io : IdleOrder) (pre00 : Bool) (addr : List Byte) :
    LeavesWp (readGoSteps io pre00 addr) := by
  cases pre00 <;> simp [readGoSteps]

@[simp] theorem leavesWp_programGo (io : IdleOrder) (tm : Timing) (mode : Mode) (addr : List Byte) (n : Nat) (k : Byte) :
    LeavesWp (programGoSteps io tm mode addr n k) := by
  simp [programGoSteps]

@[simp] theorem leavesWp_eraseGo (io : IdleOrder) (addr : List Byte) : LeavesWp (eraseGoSteps io addr) := by
  simp [eraseGoSteps]

@[simp] theorem leavesWp_abort (io : IdleOrder) (tm : Timing) (l : Word32) : LeavesWp (abortSteps io tm l) := by
  simp [abortSteps, Micro.leavesWp]

@[simp] theorem leavesWp_status (io : IdleOrder) (tm : Timing) (mode : Mode) : LeavesWp (statusSteps io tm mode) := by
  simp [statusSteps]

@[simp] theorem leavesWp_measureBusy (ta tc : Word64) : LeavesWp (measureBusySteps ta tc false) := by
  simp [measureBusySteps, Micro.leavesWp, Poll.raisedWp]

@[simp] theorem leavesWp_columnBytes (io : IdleOrder) (tm : Timing) (mode : Mode) (cc : BitVec 2) (k n : Nat) :
    LeavesWp (burst (columnByteSteps io tm mode cc) k n) :=
  leavesWp_burst (fun k => by simp [columnByteSteps]) k n

theorem leavesWp_stepsOf {i : Instr} (hi : mayWriteWp i = false) (s : State) : LeavesWp (stepsOf i s) := by
  cases i with
  | enableErase | disableErase | tProgram | tErase => cases hi
  | waitReady limit =>
    cases limit <;> simp [stepsOf, waitReadySteps, boundedWaitSteps, Micro.leavesWp, Poll.raisedWp]
  | readParameterPage jedec bytewise => cases bytewise <;> simp [stepsOf]
  | pageRead a n c pre00 bytewise => cases bytewise <;> simp [stepsOf]
  | tRead a n c pre00 fetch ta tc =>
    cases fetch <;>
      simp [stepsOf, prologueSteps, boundedWaitSteps, epilogueSteps, lowerWp, Micro.leavesWp, Poll.raisedWp]
  | _ => simp [stepsOf]

/-- Settles O53: an operation that may not write WP has no step that does, and engine steps keep that. -/
theorem wpWrittenOnlyByFourOperations : Obligations.WpWrittenOnlyByFourOperations := by
  refine ⟨fun i s t hr hi h => ?_, fun s t hr hleft h => ?_⟩
  · rw [exec_eq_request] at h
    have hkept : WpKept s t := request_induction (P := WpKept s) WpKept.engineStep
      ⟨rfl, ⟨[], by simp⟩, fun hrun => by simp [hr] at hrun⟩
      (fun _ => ⟨rfl, ⟨[], by simp⟩, fun _ => (leavesWp_append ..).2 ⟨leavesWp_stepsOf hi s, by simp [Micro.leavesWp]⟩⟩) h
    exact ⟨hkept.level, hkept.unwritten, hkept.left⟩
  · have hkept : WpKept s t := resume_induction (P := WpKept s) WpKept.engineStep
      ⟨rfl, ⟨[], by simp⟩, fun _ => hleft⟩ hr h
    exact ⟨hkept.level, hkept.unwritten, hkept.left⟩

end Sys2Proof.Machine
end

section
/-! PROOFS. Room in RXBUF: how many DQ samples are left, and how many every operation takes. -/

namespace Sys2Proof.Machine

/-! ### The samples left (O51) -/

@[simp] theorem samplesLeft_append (l r : List Micro) : samplesLeft (l ++ r) = samplesLeft l + samplesLeft r := by
  induction l with
  | nil => simp [samplesLeft]
  | cons m l ih => cases m <;> simp [samplesLeft, ih, Nat.add_right_comm]

theorem samplesLeft_cons_le (m : Micro) (l : List Micro) : samplesLeft l ≤ samplesLeft (m :: l) := by
  cases m <;> simp [samplesLeft]

/-- Wherever a loop goes on, no more samples are left than before. -/
theorem Continues.samplesLeft_le {m : Micro} {rest td : List Micro} (h : Continues m rest td) :
    samplesLeft td ≤ samplesLeft (m :: rest) := by
  cases h with
  | on m => exact samplesLeft_cons_le m rest
  | again | toClock | round => exact Nat.le_refl _
  | early k rest code => cases k.raisedWp <;> simp [lowerWp, samplesLeft]

/-- An event goes without a DQ sample. -/
theorem samplesLeft_of_event {m : Micro} {tx : Memory} {p : Pins} {e : Event} (h : m.event tx p = some e)
    (rest : List Micro) : samplesLeft (m :: rest) = samplesLeft rest := by
  cases m <;> simp only [Micro.event, reduceCtorEq] at h <;> rfl

/-- The room in RXBUF depends on these fields alone. -/
theorem State.RxFits.congr {s t : State} (hs : s.RxFits) (hmax : t.maxBurst = s.maxBurst) (hrun : t.run = s.run)
    (hrx : t.rxlen = s.rxlen) (htodo : t.todo = s.todo) : t.RxFits := by
  obtain ⟨hpage, hlen, hready, hrunning⟩ := hs
  constructor <;> simpa only [hmax, hrun, hrx, htodo]

theorem engineStep_rxFits {s t : State} (hs : s.RxFits) (hr : s.run = .running) (h : engineStep s = .next t) :
    t.RxFits := by
  have hmax : t.maxBurst = s.maxBurst := by obtain ⟨-, -, -, hmax, -⟩ := engineStep_hostSideKept h; exact hmax
  have hroom := hs.roomWhenRunning hr
  have hlen := hs.lengthFits
  suffices hfits : t.rxlen.toNat + samplesLeft t.todo ≤ s.maxBurst + 1 from
    { pageFits := hmax ▸ hs.pageFits
      lengthFits := hmax ▸ hs.lengthFits
      roomWhenReady := fun _ => by omega
      roomWhenRunning := fun _ => by omega }
  cases engineStep_effect h with
  | ends code hs ht => subst ht; simp only [State.complete_rxlen, State.complete_todo, samplesLeft]; omega
  | drives m rest e hs he ht =>
    subst ht
    rw [hs, samplesLeft_of_event he] at hroom
    exact hroom
  | samplesDq rest hs ht =>
    subst ht
    simp only [hs, samplesLeft] at hroom
    have hone : (1 : Word32).toNat = 1 := rfl
    simp only [State.sampleDq_rxlen, State.sampleDq_todo, BitVec.toNat_add, hone]
    omega
  | samplesRb k rest td q hs hc ht =>
    subst ht
    rw [hs] at hroom
    exact (Nat.add_le_add_left hc.samplesLeft_le _).trans hroom
  | readsClock m rest td q r a b hs hm hc ht =>
    subst ht
    rw [hs] at hroom
    exact (Nat.add_le_add_left hc.samplesLeft_le _).trans hroom
  | assigns m rest x r f hs hm ht =>
    subst ht
    rw [hs] at hroom
    exact (Nat.add_le_add_left (samplesLeft_cons_le m rest) _).trans hroom

/-! How many DQ samples each shared run of steps takes: only READ_DATA takes any (R125). -/

@[simp] theorem samplesLeft_idleWrite (a : IdleWrite) : samplesLeft a.steps = 0 := by cases a <;> rfl

@[simp] theorem samplesLeft_idle (io : IdleOrder) : samplesLeft (idleSteps io) = 0 := by
  induction io with
  | nil => rfl
  | cons a io ih =>
    have e : idleSteps (a :: io) = a.steps ++ idleSteps io := rfl
    rw [e, samplesLeft_append, samplesLeft_idleWrite, ih]

@[simp] theorem samplesLeft_command (io : IdleOrder) (b : Byte) : samplesLeft (commandSteps io b) = 0 := by
  simp [commandSteps, driveByte, pulseWe, samplesLeft]

theorem samplesLeft_addressCycles (k : Nat) (bs : List Byte) : samplesLeft (addressCycles k bs) = 0 := by
  induction bs generalizing k with
  | nil => rfl
  | cons b bs ih => simp [addressCycles, driveByte, pulseWe, samplesLeft, ih]

@[simp] theorem samplesLeft_address (io : IdleOrder) (bs : List Byte) : samplesLeft (addressSteps io bs) = 0 := by
  simp [addressSteps, samplesLeft_addressCycles, samplesLeft]

theorem samplesLeft_burst {body : Nat → List Micro} {c : Nat} (h : ∀ k, samplesLeft (body k) = c) (k n : Nat) :
    samplesLeft (burst body k n) = n * c := by
  induction n generalizing k with
  | zero => simp [burst, samplesLeft]
  | succ n ih => rw [burst, samplesLeft_append, h, ih, Nat.succ_mul, Nat.add_comm]

@[simp] theorem samplesLeft_dataIn (io : IdleOrder) (mode : Mode) (n : Nat) : samplesLeft (dataInSteps io mode n) = 0 := by
  have hasync : ∀ k, samplesLeft (dataInAsync k) = 0 := fun _ => rfl
  have htoggle : ∀ k, samplesLeft (dataInToggle k) = 0 := fun _ => rfl
  cases mode with
  | async => simp [dataInSteps, samplesLeft, samplesLeft_burst hasync]
  | toggle => simp [dataInSteps, samplesLeft, samplesLeft_burst htoggle]

@[simp] theorem samplesLeft_dataOut (io : IdleOrder) (tm : Timing) (mode : Mode) (n : Nat) :
    samplesLeft (dataOutSteps io tm mode n) = n := by
  have hasync : ∀ k, samplesLeft (dataOutAsync k) = 1 := fun _ => rfl
  have htoggle : ∀ k, samplesLeft (dataOutToggle k) = 1 := fun _ => rfl
  cases mode with
  | async => simp [dataOutSteps, samplesLeft, samplesLeft_burst hasync]
  | toggle => simp [dataOutSteps, samplesLeft, samplesLeft_burst htoggle]

@[simp] theorem samplesLeft_delay (tm : Timing) (p : TimingParam) : samplesLeft (delay tm p) = 0 := rfl

@[simp] theorem samplesLeft_busyWait (tm : Timing) : samplesLeft (busyWaitSteps tm) = 0 := rfl

@[simp] theorem samplesLeft_changeColumn (io : IdleOrder) (tm : Timing) (col : List Byte) :
    samplesLeft (changeColumnSteps io tm col) = 0 := by
  simp [changeColumnSteps]

@[simp] theorem samplesLeft_columnBytes (io : IdleOrder) (tm : Timing) (mode : Mode) (cc : BitVec 2) (k n : Nat) :
    samplesLeft (burst (columnByteSteps io tm mode cc) k n) = n := by
  simpa using samplesLeft_burst (c := 1) (fun k => by simp [columnByteSteps]) k n

@[simp] theorem samplesLeft_readGo (io : IdleOrder) (pre00 : Bool) (addr : List Byte) :
    samplesLeft (readGoSteps io pre00 addr) = 0 := by
  cases pre00 <;> simp [readGoSteps]

@[simp] theorem samplesLeft_programGo (io : IdleOrder) (tm : Timing) (mode : Mode) (addr : List Byte) (n : Nat) (k : Byte) :
    samplesLeft (programGoSteps io tm mode addr n k) = 0 := by
  simp [programGoSteps]

@[simp] theorem samplesLeft_eraseGo (io : IdleOrder) (addr : List Byte) : samplesLeft (eraseGoSteps io addr) = 0 := by
  simp [eraseGoSteps]

@[simp] theorem samplesLeft_abort (io : IdleOrder) (tm : Timing) (l : Word32) : samplesLeft (abortSteps io tm l) = 0 := by
  simp [abortSteps, samplesLeft]

@[simp] theorem samplesLeft_status (io : IdleOrder) (tm : Timing) (mode : Mode) :
    samplesLeft (statusSteps io tm mode) = 1 := by
  simp [statusSteps]

@[simp] theorem samplesLeft_prologue (raiseWp : Bool) : samplesLeft (prologueSteps raiseWp) = 0 := by
  cases raiseWp <;> rfl

@[simp] theorem samplesLeft_measureBusy (ta tc : Word64) (raisedWp : Bool) :
    samplesLeft (measureBusySteps ta tc raisedWp) = 0 := rfl

@[simp] theorem samplesLeft_epilogue (io : IdleOrder) (tm : Timing) (mode : Mode) (raisedWp : Bool) :
    samplesLeft (epilogueSteps io tm mode raisedWp) = 1 := by
  cases raisedWp <;> simp [epilogueSteps, lowerWp, samplesLeft]

theorem count_le_of_checked {s : State} {c : Word32} (h : checkCount s c = none) : c.toNat ≤ s.maxBurst := by
  simpa [WellFormed.count] using h

/-- A checked operation samples at most a parameter page, or `COUNT` bytes and the status byte. -/
theorem samplesLeft_stepsOf {i : Instr} {s : State} (hpage : parameterPageBytes ≤ s.maxBurst)
    (hc : firstFailure (checksOf i s) = none) : samplesLeft (stepsOf i s) ≤ s.maxBurst + 1 := by
  rw [firstFailure_none_iff] at hc
  rw [parameterPageBytes] at hpage
  cases i with
  | readData c | readId b c =>
    have hcount := count_le_of_checked (hc (checkCount s c) (by simp [checksOf]))
    simp [stepsOf]; omega
  | readParameterPage jedec bytewise =>
    have hsamples : samplesLeft (stepsOf (.readParameterPage jedec bytewise) s) = 256 := by
      cases bytewise <;> simp [stepsOf, parameterPageBytes]
    omega
  | pageRead a n c pre00 bytewise =>
    have hcount := count_le_of_checked (hc (checkCount s c) (by simp [checksOf]))
    have hsamples : samplesLeft (stepsOf (.pageRead a n c pre00 bytewise) s) = c.toNat := by
      cases bytewise <;> simp [stepsOf]
    omega
  | tRead a n c pre00 fetch ta tc =>
    have hcount := count_le_of_checked (hc (checkCount s c) (by simp [checksOf]))
    have hsamples : samplesLeft (stepsOf (.tRead a n c pre00 fetch ta tc) s) ≤ c.toNat + 1 := by
      cases fetch <;> simp [stepsOf, samplesLeft]
    omega
  | waitReady limit => cases limit <;> simp [stepsOf, waitReadySteps, boundedWaitSteps, samplesLeft]
  | readUniqueId | getFeatures => simp [stepsOf, uniqueIdBytes, featureBytes]; omega
  | _ => simp [stepsOf, samplesLeft]

theorem exec_rxFits {i : Instr} {s t : State} (hs : s.RxFits) (h : exec i s = .next t) : t.RxFits := by
  rw [exec_eq_request] at h
  refine request_induction (P := State.RxFits) engineStep_rxFits ?_ (fun hc => ?_) h
  · exact hs.congr rfl rfl rfl rfl
  · refine ⟨hs.pageFits, hs.lengthFits, nofun, fun _ => ?_⟩
    simpa [samplesLeft] using samplesLeft_stepsOf hs.pageFits hc

/-- Settles O51: an accepted operation has room for every sample it takes, and each sample uses up one place. -/
theorem receivedBytesFit : Obligations.ReceivedBytesFit := by
  intro s t hs h
  cases step_effect h with
  | resumes hr ht => exact resume_induction engineStep_rxFits hs hr ht
  | requests r rest i hr _ hd ht =>
    have hpresent : (({ s with host := rest }).present r).RxFits := hs.congr rfl rfl rfl rfl
    exact exec_rxFits hpresent ht
  | blockReset rest _ ht => subst ht; exact ⟨hs.pageFits, hs.lengthFits, fun _ => Nat.zero_le _, nofun⟩
  | rejects r rest hr _ ht => subst ht; exact hs.congr rfl rfl rfl rfl
  | setsMode m rest hr _ ht => subst ht; exact hs.congr rfl rfl rfl rfl
  | setsTiming v rest hr _ ht => subst ht; exact hs.congr rfl rfl rfl rfl
  | setsSlice n rest hr _ ht => subst ht; exact hs.congr rfl rfl rfl rfl
  | waits hr _ ht => subst ht; exact hs

end Sys2Proof.Machine
end

section
/-! PROOFS. Sound runs of steps: every primitive and every shared part leads from idle pins to idle pins on a legal bus
(R33, R79, R97, R129), for every lawful IdleOrder. -/

namespace Sys2Proof.Machine

/-! ### Runs between pins (O48) -/

/-- A Hoare triple for `tailSound`: from pins that meet `P` the steps `l` are legal, and what follows them finds pins that
meet `Q`, on every path that does not end the operation. -/
def SoundBetween (tx : Memory) (P Q : Pins → Bool) (l : List Micro) : Prop :=
  ∀ p rest, P p = true → (∀ q, Q q = true → tailSound tx q rest = true) → tailSound tx p (l ++ rest) = true

section
variable {tx : Memory} {P Q R : Pins → Bool} {l m : List Micro}

theorem SoundBetween.nil : SoundBetween tx P P [] := fun p _ hp hrest => hrest p hp

theorem SoundBetween.append (hl : SoundBetween tx P Q l) (hm : SoundBetween tx Q R m) : SoundBetween tx P R (l ++ m) := by
  intro p rest hp hrest
  rw [List.append_assoc]
  exact hl p _ hp fun q hq => hm q rest hq hrest

/-- What holds before and after each body of a burst holds before and after the burst. -/
theorem SoundBetween.burst {body : Nat → List Micro} (h : ∀ k, SoundBetween tx P P (body k)) (k n : Nat) :
    SoundBetween tx P P (burst body k n) := by
  induction n generalizing k with
  | zero => exact .nil
  | succ n ih => exact (h k).append (ih (k + 1))

end

/-- While bytes are driven (R121 to R124): DQ are outputs, WE# and RE# are high, CLE and ALE not both. -/
def Pins.isWriting (p : Pins) : Bool := p.we && p.re && !(p.cle && p.ale) && p.dqDir == .out

/-- While bytes are sampled (R126, R127): DQ and the strobes are inputs, the write side is idle. -/
def Pins.isReading (p : Pins) : Bool := p.we && !p.cle && !p.ale && p.dqDir == .inp && p.strobeDir == .inp

/-- An entry that leaves idle pins idle: WP, a wait, a sample of R/B#, a clock read, an assignment. -/
def Micro.sparesIdle : Micro → Bool
  | .w .wp _ | .dly _ _ | .spin _ | .clkStart | .pollRb _ | .pollClk _ | .clkBusyStart | .clkBusyEnd | .setIdx _
  | .busySeen | .setFetched | .decodeStatus => true
  | _ => false

theorem Pins.legal_of_isIdle {p : Pins} (h : p.isIdle = true) : p.legal = true := by
  rw [Pins.idle_eq h]; rfl

section
variable (tx : Memory)

/-- Before such an entry from idle pins, and after it, the same has to be sound. -/
theorem tailSound_sparesIdle {m : Micro} {p : Pins} (hm : m.sparesIdle = true) (hp : p.isIdle = true)
    (rest : List Micro) :
    ∃ q, q.isIdle = true ∧ tailSound tx p (m :: rest) = tailSound tx q rest := by
  have hlegal := Pins.legal_of_isIdle hp
  cases m with
  | w q v =>
    cases q with
    | wp => exact ⟨p.write .wp v, hp, by simp [tailSound, Micro.onPins, Micro.event, Event.onPins, hlegal]⟩
    | _ => cases hm
  | dly | spin | clkStart | clkBusyStart | clkBusyEnd | setIdx | busySeen | setFetched | decodeStatus =>
    exact ⟨p, hp, by simp [tailSound, Micro.onPins, Micro.event, Event.onPins, hlegal]⟩
  | pollRb | pollClk => exact ⟨p, hp, by simp [tailSound, hlegal, hp]⟩
  | _ => cases hm

theorem soundBetween_sparesIdle {l : List Micro} (h : l.all Micro.sparesIdle = true) :
    SoundBetween tx Pins.isIdle Pins.isIdle l := by
  induction l with
  | nil => exact .nil
  | cons m l ih =>
    rw [List.all_cons, Bool.and_eq_true] at h
    obtain ⟨hm, hl⟩ := h
    intro p rest hp hrest
    obtain ⟨q, hq, he⟩ := tailSound_sparesIdle tx hm hp (l ++ rest)
    rw [List.cons_append, he]
    exact ih hl q rest hq hrest

/-- IDLE from WE# high (R120). -/
theorem soundBetween_idleSteps {io : IdleOrder} (hio : io.lawful = true) {P : Pins → Bool}
    (hP : ∀ p, P p = true → p.legal = true ∧ p.we = true) : SoundBetween tx P Pins.isIdle (idleSteps io) := by
  intro p rest hp hrest
  obtain ⟨hlegal, hwe⟩ := hP p hp
  exact tailSound_idle hio hlegal hwe (hrest _ p.toIdle_isIdle)

theorem Pins.isWriting_closes {p : Pins} (h : p.isWriting = true) : p.legal = true ∧ p.we = true := by
  obtain ⟨ce, we, re, cle, ale, wp, dqs, dqsc, o, d, sd⟩ := p
  simp_all [Pins.isWriting, Pins.legal]

theorem Pins.isReading_closes {p : Pins} (h : p.isReading = true) : p.legal = true ∧ p.we = true := by
  obtain ⟨ce, we, re, cle, ale, wp, dqs, dqsc, o, d, sd⟩ := p
  simp_all [Pins.isReading, Pins.legal]

/-- The head of SEND_COMMAND (R121). -/
theorem soundBetween_selectCommand :
    SoundBetween tx Pins.isIdle Pins.isWriting [.w .ce false, .w .cle true] := by
  intro p rest hp hrest
  rw [Pins.idle_eq hp]
  simp_all [tailSound, Micro.onPins, Micro.event, Event.onPins, Pins.write, Pins.legal, Pins.isWriting]

/-- The head of SEND_ADDRESSES (R122). -/
theorem soundBetween_selectAddress :
    SoundBetween tx Pins.isIdle Pins.isWriting [.w .ce false, .w .ale true] := by
  intro p rest hp hrest
  rw [Pins.idle_eq hp]
  simp_all [tailSound, Micro.onPins, Micro.event, Event.onPins, Pins.write, Pins.legal, Pins.isWriting]

/-- The head of SEND_DATA (R123). -/
theorem soundBetween_selectData :
    SoundBetween tx Pins.isIdle Pins.isWriting [.w .ce false, .w .cle false, .w .ale false] := by
  intro p rest hp hrest
  rw [Pins.idle_eq hp]
  simp_all [tailSound, Micro.onPins, Micro.event, Event.onPins, Pins.write, Pins.legal, Pins.isWriting]

/-- The strobes of a TOGGLE data-in burst (R124). -/
theorem soundBetween_startStrobes :
    SoundBetween tx Pins.isWriting Pins.isWriting [.w .dqs false, .w .dqsc true, .dirStrobe .out] := by
  intro p rest hp hrest
  obtain ⟨ce, we, re, cle, ale, wp, dqs, dqsc, o, d, sd⟩ := p
  simp_all [tailSound, Micro.onPins, Micro.event, Event.onPins, Pins.write, Pins.legal, Pins.isWriting]

/-- One byte with its WE# pulse (R121, R122). -/
theorem soundBetween_pulseByte (b : Byte) :
    SoundBetween tx Pins.isWriting Pins.isWriting (driveByte b ++ pulseWe) := by
  intro p rest hp hrest
  obtain ⟨ce, we, re, cle, ale, wp, dqs, dqsc, o, d, sd⟩ := p
  simp_all [driveByte, pulseWe, tailSound, Micro.onPins, Micro.event, Event.onPins, Pins.write, Pins.legal,
    Pins.isWriting, Pins.clearDq, Pins.setDq]

/-- One byte of an ASYNC data-in burst (R123). -/
theorem soundBetween_dataInAsync (k : Nat) : SoundBetween tx Pins.isWriting Pins.isWriting (dataInAsync k) := by
  intro p rest hp hrest
  obtain ⟨ce, we, re, cle, ale, wp, dqs, dqsc, o, d, sd⟩ := p
  simp_all [dataInAsync, driveTx, pulseWe, tailSound, Micro.onPins, Micro.event, Event.onPins, Pins.write, Pins.legal,
    Pins.isWriting, Pins.clearDq, Pins.setDq]

/-- One byte of a TOGGLE data-in burst (R124). -/
theorem soundBetween_dataInToggle (k : Nat) : SoundBetween tx Pins.isWriting Pins.isWriting (dataInToggle k) := by
  intro p rest hp hrest
  obtain ⟨ce, we, re, cle, ale, wp, dqs, dqsc, o, d, sd⟩ := p
  simp_all [dataInToggle, driveTx, tailSound, Micro.onPins, Micro.event, Event.onPins, Pins.write, Pins.legal,
    Pins.isWriting, Pins.clearDq, Pins.setDq]

/-- The head of READ_DATA (R125). -/
theorem soundBetween_selectRead (t : Word32) :
    SoundBetween tx Pins.isIdle Pins.isReading [.dirDQ .inp, .pollRb .untilReady, .dly .tRR t, .w .ce false] := by
  intro p rest hp hrest
  rw [Pins.idle_eq hp]
  simp_all [tailSound, Micro.onPins, Micro.event, Event.onPins, Pins.write, Pins.legal, Pins.isReading, Poll.needsIdle]

/-- One byte of an ASYNC data-out burst (R126). -/
theorem soundBetween_dataOutAsync (k : Nat) : SoundBetween tx Pins.isReading Pins.isReading (dataOutAsync k) := by
  intro p rest hp hrest
  obtain ⟨ce, we, re, cle, ale, wp, dqs, dqsc, o, d, sd⟩ := p
  simp_all [dataOutAsync, tailSound, Micro.onPins, Micro.event, Event.onPins, Pins.write, Pins.legal, Pins.isReading]

/-- One byte of a TOGGLE data-out burst (R127). -/
theorem soundBetween_dataOutToggle (k : Nat) : SoundBetween tx Pins.isReading Pins.isReading (dataOutToggle k) := by
  intro p rest hp hrest
  obtain ⟨ce, we, re, cle, ale, wp, dqs, dqsc, o, d, sd⟩ := p
  simp_all [dataOutToggle, tailSound, Micro.onPins, Micro.event, Event.onPins, Pins.write, Pins.legal, Pins.isReading]

/-! The primitives of file 40 lead from idle pins to idle pins (R129). -/

variable {io : IdleOrder} (hio : io.lawful = true)
include hio

theorem soundBetween_command (b : Byte) : SoundBetween tx Pins.isIdle Pins.isIdle (commandSteps io b) := by
  have h := ((soundBetween_selectCommand tx).append (soundBetween_pulseByte tx b)).append
    (soundBetween_idleSteps tx hio fun _ => Pins.isWriting_closes)
  simpa [commandSteps] using h

omit hio in
theorem soundBetween_addressCycles (k : Nat) (bs : List Byte) :
    SoundBetween tx Pins.isWriting Pins.isWriting (addressCycles k bs) := by
  induction bs generalizing k with
  | nil => exact .nil
  | cons b bs ih =>
    have hidx : SoundBetween tx Pins.isWriting Pins.isWriting [.setIdx k] := fun p rest hp hrest => by
      simpa [tailSound, Micro.onPins, Micro.event, (Pins.isWriting_closes hp).1] using hrest p hp
    simpa [addressCycles] using (hidx.append (soundBetween_pulseByte tx b)).append (ih (k + 1))

theorem soundBetween_address (bs : List Byte) : SoundBetween tx Pins.isIdle Pins.isIdle (addressSteps io bs) :=
  ((soundBetween_selectAddress tx).append (soundBetween_addressCycles tx 0 bs)).append
    (soundBetween_idleSteps tx hio fun _ => Pins.isWriting_closes)

theorem soundBetween_dataIn (mode : Mode) (n : Nat) :
    SoundBetween tx Pins.isIdle Pins.isIdle (dataInSteps io mode n) := by
  have hidle := soundBetween_idleSteps tx hio fun _ => Pins.isWriting_closes
  cases mode with
  | async =>
    exact ((soundBetween_selectData tx).append (.burst (soundBetween_dataInAsync tx) 0 n)).append hidle
  | toggle =>
    have hburst := (soundBetween_startStrobes tx).append (.burst (soundBetween_dataInToggle tx) 0 n)
    exact ((soundBetween_selectData tx).append hburst).append hidle

theorem soundBetween_dataOut (tm : Timing) (mode : Mode) (n : Nat) :
    SoundBetween tx Pins.isIdle Pins.isIdle (dataOutSteps io tm mode n) := by
  have hidle := soundBetween_idleSteps tx hio fun _ => Pins.isReading_closes
  have hend : SoundBetween tx Pins.isIdle Pins.isIdle [.dly .tRHW tm.tRHW] := soundBetween_sparesIdle tx rfl
  cases mode with
  | async =>
    exact (((soundBetween_selectRead tx tm.tRR).append (.burst (soundBetween_dataOutAsync tx) 0 n)).append hidle).append
      hend
  | toggle =>
    exact (((soundBetween_selectRead tx tm.tRR).append (.burst (soundBetween_dataOutToggle tx) 0 n)).append hidle).append
      hend

/-! So do the parts the dispatcher and timed operations share. -/

omit hio in
theorem soundBetween_delay (tm : Timing) (p : TimingParam) : SoundBetween tx Pins.isIdle Pins.isIdle (delay tm p) :=
  soundBetween_sparesIdle tx rfl

omit hio in
theorem soundBetween_busyWait (tm : Timing) : SoundBetween tx Pins.isIdle Pins.isIdle (busyWaitSteps tm) :=
  soundBetween_sparesIdle tx rfl

omit hio in
theorem soundBetween_prologue (raiseWp : Bool) : SoundBetween tx Pins.isIdle Pins.isIdle (prologueSteps raiseWp) :=
  soundBetween_sparesIdle tx (by cases raiseWp <;> rfl)

omit hio in
theorem soundBetween_measureBusy (ta tc : Word64) (raisedWp : Bool) :
    SoundBetween tx Pins.isIdle Pins.isIdle (measureBusySteps ta tc raisedWp) :=
  soundBetween_sparesIdle tx rfl

theorem soundBetween_changeColumn (tm : Timing) (col : List Byte) :
    SoundBetween tx Pins.isIdle Pins.isIdle (changeColumnSteps io tm col) :=
  (((soundBetween_command tx hio _).append (soundBetween_address tx hio col)).append
    (soundBetween_command tx hio _)).append (soundBetween_delay tx tm .tCCS)

theorem soundBetween_columnBytes (tm : Timing) (mode : Mode) (cc : BitVec 2) (k n : Nat) :
    SoundBetween tx Pins.isIdle Pins.isIdle (burst (columnByteSteps io tm mode cc) k n) :=
  .burst (fun _ => (soundBetween_changeColumn tx hio tm _).append (soundBetween_dataOut tx hio tm mode 1)) k n

theorem soundBetween_readGo (pre00 : Bool) (addr : List Byte) :
    SoundBetween tx Pins.isIdle Pins.isIdle (readGoSteps io pre00 addr) := by
  have hprefix : SoundBetween tx Pins.isIdle Pins.isIdle (if pre00 then commandSteps io cmdRead else []) := by
    cases pre00 with
    | false => exact .nil
    | true => exact soundBetween_command tx hio cmdRead
  exact ((hprefix.append (soundBetween_command tx hio _)).append (soundBetween_address tx hio addr)).append
    (soundBetween_command tx hio _)

theorem soundBetween_programGo (tm : Timing) (mode : Mode) (addr : List Byte) (n : Nat) (k : Byte) :
    SoundBetween tx Pins.isIdle Pins.isIdle (programGoSteps io tm mode addr n k) :=
  ((((soundBetween_command tx hio _).append (soundBetween_address tx hio addr)).append
    (soundBetween_delay tx tm .tADL)).append (soundBetween_dataIn tx hio mode n)).append (soundBetween_command tx hio k)

theorem soundBetween_eraseGo (addr : List Byte) : SoundBetween tx Pins.isIdle Pins.isIdle (eraseGoSteps io addr) :=
  ((soundBetween_command tx hio _).append (soundBetween_address tx hio addr)).append (soundBetween_command tx hio _)

theorem soundBetween_abort (tm : Timing) (l : Word32) :
    SoundBetween tx Pins.isIdle Pins.isIdle (abortSteps io tm l) := by
  have hspin : SoundBetween tx Pins.isIdle Pins.isIdle [.spin l] := soundBetween_sparesIdle tx rfl
  exact (hspin.append (soundBetween_command tx hio _)).append (soundBetween_busyWait tx tm)

theorem soundBetween_status (tm : Timing) (mode : Mode) :
    SoundBetween tx Pins.isIdle Pins.isIdle (statusSteps io tm mode) :=
  ((soundBetween_command tx hio _).append (soundBetween_delay tx tm .tWHR)).append (soundBetween_dataOut tx hio tm mode 1)

theorem soundBetween_epilogue (tm : Timing) (mode : Mode) (raisedWp : Bool) :
    SoundBetween tx Pins.isIdle Pins.isIdle (epilogueSteps io tm mode raisedWp) := by
  have hend : SoundBetween tx Pins.isIdle Pins.isIdle ([.decodeStatus] ++ lowerWp raisedWp) :=
    soundBetween_sparesIdle tx (by cases raisedWp <;> rfl)
  simpa [epilogueSteps] using (soundBetween_status tx hio tm mode).append hend

end

end Sys2Proof.Machine
end

section
/-! PROOFS. The invariant `State.Sound`, the state after reset, and the configuration moves of the host. -/

namespace Sys2Proof.Machine

/-! ### The steps of every operation (O48) -/

/-- Every operation leads from idle pins to idle pins on a legal bus (R33, R129). -/
theorem soundBetween_stepsOf (tx : Memory) (i : Instr) {s : State} (hio : s.idleOrder.lawful = true) :
    SoundBetween tx Pins.isIdle Pins.isIdle (stepsOf i s) := by
  have command := fun b => soundBetween_command tx hio b
  have address := fun bs => soundBetween_address tx hio bs
  have dataOut := fun n => soundBetween_dataOut tx hio s.timing s.mode n
  have wait := soundBetween_busyWait tx s.timing
  have programGo := fun addr n k => soundBetween_programGo tx hio s.timing s.mode addr n k
  have eraseGo := fun addr => soundBetween_eraseGo tx hio addr
  cases i with
  | idle => exact soundBetween_idleSteps tx hio fun p hp => ⟨Pins.legal_of_isIdle hp, by rw [Pins.idle_eq hp]⟩
  | sendCommand b => exact command b
  | sendAddresses a n => exact address _
  | sendData c => exact soundBetween_dataIn tx hio s.mode _
  | readData c => exact dataOut _
  | waitReady limit => cases limit <;> exact soundBetween_sparesIdle tx rfl
  | enableErase => exact soundBetween_sparesIdle tx rfl
  | disableErase => exact soundBetween_sparesIdle tx rfl
  | measureBusy ta tc => exact soundBetween_measureBusy tx ta tc false
  | reset => exact (command _).append wait
  | readId b c => exact (((command _).append (address _)).append (soundBetween_delay tx _ _)).append (dataOut _)
  | readUniqueId => exact (((command _).append (address _)).append wait).append (dataOut _)
  | readParameterPage jedec bytewise =>
    refine (((command _).append (address _)).append wait).append ?_
    cases bytewise with
    | none => exact dataOut _
    | some c => exact (dataOut 1).append (soundBetween_columnBytes tx hio _ _ _ _ _)
  | pageRead a n c pre00 bytewise =>
    refine ((soundBetween_readGo tx hio pre00 _).append wait).append ?_
    cases bytewise with
    | none => exact dataOut _
    | some cc => exact soundBetween_columnBytes tx hio _ _ _ _ _
  | changeReadColumn a n => exact soundBetween_changeColumn tx hio s.timing _
  | pageProgram a n c k => exact (programGo _ _ k).append wait
  | blockErase a n => exact (eraseGo _).append wait
  | setFeatures f =>
    exact ((((command _).append (address _)).append (soundBetween_delay tx _ _)).append
      (soundBetween_dataIn tx hio s.mode _)).append wait
  | getFeatures f => exact (((command _).append (address _)).append wait).append (dataOut _)
  | readStatus => exact soundBetween_status tx hio s.timing s.mode
  | partialErase a n l => exact (eraseGo _).append (soundBetween_abort tx hio s.timing l)
  | tlcSubpageProgram x a n c => exact ((command x).append (programGo _ _ _)).append wait
  | partialProgram a n c k l => exact (programGo _ _ k).append (soundBetween_abort tx hio s.timing l)
  | tRead a n c pre00 fetch ta tc =>
    have hfetch : SoundBetween tx Pins.isIdle Pins.isIdle
        (if fetch then dataOutSteps s.idleOrder s.timing s.mode c.toNat ++ [.setFetched] else []) := by
      cases fetch with
      | false => exact .nil
      | true => exact (dataOut _).append (soundBetween_sparesIdle tx rfl)
    exact ((((soundBetween_prologue tx false).append (soundBetween_readGo tx hio pre00 _)).append
      (soundBetween_measureBusy tx ta tc false)).append hfetch).append
      (soundBetween_epilogue tx hio s.timing s.mode false)
  | tProgram a n c k ta tc =>
    exact (((soundBetween_prologue tx true).append (programGo _ _ k)).append
      (soundBetween_measureBusy tx ta tc true)).append (soundBetween_epilogue tx hio s.timing s.mode true)
  | tErase a n ta tc =>
    exact (((soundBetween_prologue tx true).append (eraseGo _)).append
      (soundBetween_measureBusy tx ta tc true)).append (soundBetween_epilogue tx hio s.timing s.mode true)

/-! ### What soundness of the steps left says of the next one -/

theorem tailSound_done {tx : Memory} {p : Pins} {code : Byte} {rest : List Micro}
    (h : tailSound tx p (.done code :: rest) = true) : p.isIdle = true ∧ knownCode code = true := by
  simp only [tailSound, Bool.and_eq_true] at h; exact h.2

theorem tailSound_event {tx : Memory} {p : Pins} {m : Micro} {e : Event} {rest : List Micro}
    (he : m.event tx p = some e) (h : tailSound tx p (m :: rest) = true) : tailSound tx (e.onPins p) rest = true := by
  have hp : m.onPins tx p = e.onPins p := by simp [Micro.onPins, he]
  rw [← hp]
  cases m <;> simp_all [tailSound, Micro.event]

/-- An entry without an event that does not end the operation leaves the pins to the next one. -/
theorem tailSound_noEvent {tx : Memory} {p : Pins} {m : Micro} {rest : List Micro} (he : m.event tx p = none)
    (hd : ∀ code, m ≠ .done code) (h : tailSound tx p (m :: rest) = true) : tailSound tx p rest = true := by
  cases m <;> simp_all [tailSound, Micro.event, Micro.onPins]

/-- A loop that can end the operation early runs with idle pins, and ends it with a known code. -/
theorem Poll.early_known {k : Poll} {code : Byte} (h : k.earlyCode = some code) :
    k.needsIdle = true ∧ knownCode code = true := by
  cases k <;> simp only [Poll.earlyCode, Option.some.injEq, reduceCtorEq] at h <;> subst h <;> exact ⟨rfl, rfl⟩

/-- The end of an operation that is left early is sound from idle pins (R232). -/
theorem tailSound_early (tx : Memory) {p : Pins} {code : Byte} (hp : p.isIdle = true) (hc : knownCode code = true)
    (raisedWp : Bool) : tailSound tx p (lowerWp raisedWp ++ [.done code]) = true := by
  have hlower : SoundBetween tx Pins.isIdle Pins.isIdle (lowerWp raisedWp) :=
    soundBetween_sparesIdle tx (by cases raisedWp <;> rfl)
  refine hlower p _ hp fun q hq => ?_
  simp [tailSound, hq, hc, Pins.legal_of_isIdle hq]

theorem Continues.tailSound {tx : Memory} {p : Pins} {m : Micro} {rest td : List Micro} (h : Continues m rest td)
    (he : m.event tx p = none) (hd : ∀ code, m ≠ .done code) (hs : tailSound tx p (m :: rest) = true) :
    tailSound tx p td = true := by
  cases h with
  | on => exact tailSound_noEvent he hd hs
  | again | toClock | round => exact hs
  | early k rest code hk =>
    obtain ⟨hneeds, hknown⟩ := Poll.early_known hk
    have hidle : p.isIdle = true := by
      simp only [Machine.tailSound, hneeds, Bool.and_eq_true] at hs
      simpa using hs.2.1
    exact tailSound_early tx hidle hknown k.raisedWp

/-! ### The invariant -/

/-- Soundness depends on these fields alone. -/
theorem State.Sound.congr {s t : State} (hs : s.Sound) (hio : t.idleOrder = s.idleOrder) (hrun : t.run = s.run)
    (hpins : t.pins = s.pins) (htodo : t.todo = s.todo) (hres : knownCode t.res = true)
    (htx : t.opnd.txbuf = s.opnd.txbuf) (hrx : t.rxbuf = s.rxbuf) (hhost : t.host.all HostMove.wf = true) : t.Sound where
  orderLawful := hio ▸ hs.orderLawful
  idleWhenReady := by rw [hrun, hpins]; exact hs.idleWhenReady
  tailWhenRunning := by rw [hrun, hpins, htx, htodo]; exact hs.tailWhenRunning
  resKnown := hres
  txCanonical := htx ▸ hs.txCanonical
  rxCanonical := hrx ▸ hs.rxCanonical
  hostCanonical := hhost

/-- A RUNNING block stays sound while its steps left do and RXBUF stays in canonical form. -/
theorem State.Sound.of_running {s t : State} (hs : s.Sound) (hkept : HostSideKept s t) (hrun : t.run = .running)
    (hres : t.res = s.res) (hrx : Memory.wf t.rxbuf = true) (htail : tailSound s.opnd.txbuf t.pins t.todo = true) :
    t.Sound := by
  obtain ⟨hopnd, -, -, -, hhost, -, hio⟩ := hkept
  exact
    { orderLawful := hio ▸ hs.orderLawful
      idleWhenReady := fun h => by rw [hrun] at h; cases h
      tailWhenRunning := fun _ => hopnd ▸ htail
      resKnown := hres ▸ hs.resKnown
      txCanonical := hopnd ▸ hs.txCanonical
      rxCanonical := hrx
      hostCanonical := hhost ▸ hs.hostCanonical }

theorem State.Sound.complete {s : State} {code : Byte} (hs : s.Sound) (hidle : s.pins.isIdle = true)
    (hcode : knownCode code = true) : (s.complete code).Sound where
  orderLawful := hs.orderLawful
  idleWhenReady := fun _ => hidle
  tailWhenRunning := nofun
  resKnown := hcode
  txCanonical := hs.txCanonical
  rxCanonical := hs.rxCanonical
  hostCanonical := hs.hostCanonical

theorem engineStep_sound {s t : State} (hs : s.Sound) (hr : s.run = .running) (h : engineStep s = .next t) :
    t.Sound := by
  have hkept := engineStep_hostSideKept h
  have htail := hs.tailWhenRunning hr
  have hrx := hs.rxCanonical
  cases engineStep_effect h with
  | ends code hend ht =>
    subst ht
    rcases hend with ⟨hnil, rfl⟩ | ⟨rest, hdone⟩
    · rw [hnil] at htail; exact hs.complete htail rfl
    · rw [hdone] at htail
      obtain ⟨hidle, hcode⟩ := tailSound_done htail
      exact hs.complete hidle hcode
  | drives m rest e hm he ht =>
    rw [hm] at htail
    subst ht
    exact hs.of_running hkept hr rfl hrx (tailSound_event he htail)
  | samplesDq rest hm ht =>
    rw [hm] at htail
    subst ht
    exact hs.of_running hkept hr rfl (Memory.wf_write hrx ..) (tailSound_noEvent rfl (by simp) htail)
  | samplesRb k rest td q hm hc ht =>
    rw [hm] at htail
    subst ht
    exact hs.of_running hkept hr rfl hrx (hc.tailSound rfl (by simp) htail)
  | readsClock m rest td q r a b hm hclk hc ht =>
    rw [hm] at htail
    subst ht
    exact hs.of_running hkept hr rfl hrx
      (hc.tailSound (m.event_of_readsClock hclk ..) (by rintro _ rfl; cases hclk) htail)
  | assigns m rest x r f hm hassign ht =>
    rw [hm] at htail
    subst ht
    exact hs.of_running hkept hr rfl hrx
      (tailSound_noEvent (m.event_of_assigns hassign ..) (by rintro _ rfl; cases hassign) htail)

theorem exec_sound {i : Instr} {s t : State} (hs : s.Sound) (hr : s.run = .ready) (h : exec i s = .next t) : t.Sound := by
  rw [exec_eq_request] at h
  refine request_induction (P := State.Sound) engineStep_sound ?_ (fun _ => ?_) h
  · exact hs.congr rfl rfl rfl rfl rfl rfl rfl hs.hostCanonical
  · have hsteps := soundBetween_stepsOf s.opnd.txbuf i hs.orderLawful s.pins [.done resOk] (hs.idleWhenReady hr)
      fun q hq => tailSound_early _ hq rfl false
    exact
      { orderLawful := hs.orderLawful
        idleWhenReady := nofun
        tailWhenRunning := fun _ => hsteps
        resKnown := rfl
        txCanonical := hs.txCanonical
        rxCanonical := hs.rxCanonical
        hostCanonical := hs.hostCanonical }

/-- The moves behind the host's next one are in canonical form, too. -/
theorem State.Sound.host_rest {s : State} {move : HostMove} {rest : List HostMove} (hs : s.Sound)
    (hhost : s.host = move :: rest) : rest.all HostMove.wf = true := by
  have hmoves := hs.hostCanonical
  rw [hhost, List.all_cons, Bool.and_eq_true] at hmoves
  exact hmoves.2

theorem State.Sound.present {s : State} {r : Request} {rest : List HostMove} (hs : s.Sound) (hr : s.run = .ready)
    (hhost : s.host = .request r :: rest) : (({ s with host := rest }).present r).Sound where
  orderLawful := hs.orderLawful
  idleWhenReady := hs.idleWhenReady
  tailWhenRunning := fun h => by simp [hr] at h
  resKnown := hs.resKnown
  txCanonical := List.all_eq_true.1 hs.hostCanonical (.request r) (by simp [hhost])
  rxCanonical := hs.rxCanonical
  hostCanonical := hs.host_rest hhost

theorem State.Sound.blockReset {s : State} {rest : List HostMove} (hs : s.Sound) (hrest : rest.all HostMove.wf = true) :
    ({ s with host := rest }).blockReset.Sound where
  orderLawful := hs.orderLawful
  idleWhenReady := fun _ => rfl
  tailWhenRunning := nofun
  resKnown := rfl
  txCanonical := hs.txCanonical
  rxCanonical := rfl
  hostCanonical := hrest

/-- Settles O48: an accepted operation starts with sound steps, every engine step keeps them sound, and the host's moves
touch neither pins nor buffers. -/
theorem stepKeepsTheStateSound : Obligations.StepKeepsTheStateSound := by
  intro s t hs h
  cases step_effect h with
  | resumes hr ht => exact resume_induction engineStep_sound hs hr ht
  | requests r rest i hr hh hd ht => exact exec_sound (hs.present hr hh) hr ht
  | blockReset rest hh ht => subst ht; exact hs.blockReset (hs.host_rest hh)
  | rejects r rest hr hh ht =>
    subst ht
    have hp := hs.present hr hh
    exact hp.congr rfl rfl rfl rfl rfl rfl rfl hp.hostCanonical
  | setsMode m rest hr hh ht => subst ht; exact hs.congr rfl rfl rfl rfl hs.resKnown rfl rfl (hs.host_rest hh)
  | setsTiming v rest hr hh ht => subst ht; exact hs.congr rfl rfl rfl rfl hs.resKnown rfl rfl (hs.host_rest hh)
  | setsSlice n rest hr hh ht => subst ht; exact hs.congr rfl rfl rfl rfl hs.resKnown rfl rfl (hs.host_rest hh)
  | waits hr hh ht => subst ht; exact hs

/-! ### Reset and configuration (O12, O13, O49) -/

/-- Settles O12: each field of the reset state, by its definition (R45). -/
theorem resetValues : Obligations.ResetValues := by
  refine ⟨?run, ?seq, ?idx, ?pins, ?opnd, ?res, ?rxlen, ?record, ?fetched, ?mode, ?idleOrder⟩ <;> rfl

/-- Settles O13: the two configuration moves, as `step` takes them from a READY block. -/
theorem hostWritesConfiguration : Obligations.HostWritesConfiguration :=
  fun _ _ hr => ⟨fun _ hs => step_setMode hr hs, fun _ hs => step_setTiming hr hs⟩

/-- The listing order turns DQ to outputs after CE# and RE# are high, and before it drives them. -/
theorem listing_lawful : IdleOrder.listing.lawful = true := by decide

theorem reset_sound : State.reset.Sound where
  orderLawful := listing_lawful
  idleWhenReady := fun _ => rfl
  tailWhenRunning := nofun
  resKnown := rfl
  txCanonical := rfl
  rxCanonical := rfl
  hostCanonical := rfl

theorem reset_rxFits : State.reset.RxFits where
  pageFits := by decide
  lengthFits := by decide
  roomWhenReady := fun _ => Nat.zero_le _
  roomWhenRunning := nofun

/-- Settles O49: the reset pins are idle, the buffers empty, and 4320 holds a parameter page (log 6). -/
theorem resetStateIsSound : Obligations.ResetStateIsSound := ⟨reset_sound, reset_rxFits⟩

end Sys2Proof.Machine
end

section
/-! PROOFS. The pin map (O57): the bits of a mask are the bits of lines, and a sample gathers them back. -/

namespace Sys2Proof.Machine

/-- A bit of an OR over a list. -/
theorem getLsbD_foldl_or {α : Type} {n : Nat} (f : α → BitVec n) (l : List α) (w : BitVec n) (i : Nat) :
    (l.foldl (fun w k => w ||| f k) w).getLsbD i = (w.getLsbD i || l.any fun k => (f k).getLsbD i) := by
  induction l generalizing w with
  | nil => simp
  | cons a l ih => simp [ih, Bool.or_assoc]

/-- A single bit shifted into place. -/
theorem getLsbD_one_shiftLeft {n : Nat} (d i : Nat) :
    ((1#n) <<< d).getLsbD i = true ↔ i < n ∧ i = d := by
  simp [BitVec.getLsbD_shiftLeft]
  omega

/-- A legal pin map gives each line a bit of its own among the first 32 (D31). -/
structure LinesDistinct (pm : PinMap) : Prop where
  inWord : ∀ k : Fin 8, pm.dq[k] < 32
  injective : ∀ j k : Fin 8, pm.dq[j] = pm.dq[k] → j = k

theorem linesDistinct_of_valid {pm : PinMap} (h : pm.valid = true) : LinesDistinct pm := by
  simp only [PinMap.valid, Bool.and_eq_true, decide_eq_true_eq, List.all_eq_true, Vector.mem_toList_iff] at h
  obtain ⟨hnodup, hlow⟩ := h
  refine ⟨fun k => hlow _ (Vector.getElem_mem _), fun j k hjk => ?_⟩
  have hline : ∀ j : Fin 8, Signal.dq j ∈ Signal.all := by decide
  have := List.inj_on_of_nodup_map hnodup (hline j) (hline k) hjk
  simpa using this

section
variable {pm : PinMap} (h : LinesDistinct pm)
include h

/-- The mask of a byte has exactly the bits of its lines (R40). -/
theorem getLsbD_setMask (b : Byte) (i : Nat) :
    (setMask pm b).getLsbD i = true ↔ ∃ k : Fin 8, b.getLsbD k = true ∧ i = pm.dq[k] := by
  have hbit : ∀ k, (lineBit pm b k).getLsbD i = true ↔ b.getLsbD k = true ∧ i = pm.dq[k] := by
    intro k
    have := h.inWord k
    unfold lineBit
    split
    · next hb => exact (getLsbD_one_shiftLeft ..).trans ⟨fun hi => ⟨hb, hi.2⟩, fun hi => ⟨hi.2 ▸ this, hi.2⟩⟩
    · next hb => exact ⟨fun h0 => absurd h0 (by simp), fun hi => absurd hi.1 hb⟩
  rw [setMask, getLsbD_foldl_or, Bool.or_eq_true, List.any_eq_true]
  simp only [hbit, List.mem_finRange, true_and]
  exact or_iff_right (by simp)

theorem getLsbD_setMask_line (b : Byte) (k : Fin 8) : (setMask pm b).getLsbD pm.dq[k] = b.getLsbD k := by
  rw [Bool.eq_iff_iff, getLsbD_setMask h]
  constructor
  · rintro ⟨j, hb, hj⟩
    rwa [h.injective k j hj]
  · exact fun hb => ⟨k, hb, rfl⟩

/-- The DQ pin mask has the bits of all lines. -/
theorem getLsbD_dqPinMask (i : Nat) : (dqPinMask pm).getLsbD i = true ↔ ∃ k : Fin 8, i = pm.dq[k] := by
  have hall : ∀ k : Fin 8, (0xFF : Byte).getLsbD k = true := by decide
  simp only [dqPinMask, getLsbD_setMask h, hall, true_and]

theorem setMask_and_clearMask (b : Byte) : setMask pm b &&& clearMask pm b = 0 := by
  refine BitVec.eq_of_getLsbD_eq fun i _ => ?_
  rw [BitVec.getLsbD_and, show (0 : Word32).getLsbD i = false from BitVec.getLsbD_zero, Bool.and_eq_false_imp, clearMask]
  intro hset
  obtain ⟨k, hb, rfl⟩ := (getLsbD_setMask h b i).1 hset
  rw [getLsbD_setMask_line h, BitVec.getLsbD_not, hb, Bool.not_true, Bool.and_false]

theorem setMask_or_clearMask (b : Byte) : setMask pm b ||| clearMask pm b = dqPinMask pm := by
  refine BitVec.eq_of_getLsbD_eq fun i _ => ?_
  rw [BitVec.getLsbD_or, Bool.eq_iff_iff, Bool.or_eq_true, clearMask, getLsbD_setMask h, getLsbD_setMask h,
    getLsbD_dqPinMask h, ← exists_or]
  refine exists_congr fun k => ?_
  have hk : decide (k.val < 8) = true := decide_eq_true k.isLt
  rw [BitVec.getLsbD_not, hk]
  cases b.getLsbD k <;> simp

omit h in
/-- Bit `k` of a gathered sample is the bit of line `k` (R42). -/
theorem getLsbD_gather (w : Word32) (k : Fin 8) : (gather pm w).getLsbD k = w.getLsbD pm.dq[k] := by
  have hbit : ∀ j : Fin 8, (if w.getLsbD pm.dq[j] then (1 : Byte) <<< j.val else 0).getLsbD k = true ↔
      w.getLsbD pm.dq[j] = true ∧ k = j := by
    intro j
    split
    · next hw =>
      exact (getLsbD_one_shiftLeft ..).trans ⟨fun hk => ⟨hw, Fin.ext hk.2⟩, fun hk => ⟨k.isLt, congrArg Fin.val hk.2⟩⟩
    · next hw => exact ⟨fun h0 => absurd h0 (by simp), fun hk => absurd hk.1 hw⟩
  rw [Bool.eq_iff_iff, gather, getLsbD_foldl_or, Bool.or_eq_true, List.any_eq_true]
  simp only [hbit, List.mem_finRange, true_and]
  rw [or_iff_right (by simp)]
  exact ⟨fun ⟨_, hw, hk⟩ => hk ▸ hw, fun hw => ⟨k, hw, rfl⟩⟩

omit h in
theorem eq_of_lines {a b : Byte} (hbits : ∀ k : Fin 8, a.getLsbD k = b.getLsbD k) : a = b :=
  BitVec.eq_of_getLsbD_eq fun i hi => hbits ⟨i, hi⟩

/-- Clearing the lines where `b` is 0 leaves the old byte AND `b` (R41). -/
theorem gather_clear (w : Word32) (b : Byte) : gather pm (w &&& ~~~(setMask pm (~~~b))) = gather pm w &&& b := by
  refine eq_of_lines fun k => ?_
  have hline : decide (pm.dq[k] < 32) = true := decide_eq_true (h.inWord k)
  have hk : decide (k.val < 8) = true := decide_eq_true k.isLt
  rw [getLsbD_gather, BitVec.getLsbD_and, BitVec.getLsbD_and, getLsbD_gather, BitVec.getLsbD_not,
    getLsbD_setMask_line h, BitVec.getLsbD_not, hline, hk, Bool.true_and, Bool.true_and, Bool.not_not]

/-- The two accesses that drive `b` leave `b` on the lines (R41, R42). -/
theorem gather_drive (w : Word32) (b : Byte) :
    gather pm (w &&& ~~~(setMask pm (~~~b)) ||| setMask pm b) = b := by
  have hor : ∀ x y : Word32, gather pm (x ||| y) = gather pm x ||| gather pm y := fun x y =>
    eq_of_lines fun k => by simp only [getLsbD_gather, BitVec.getLsbD_or]
  have hset : gather pm (setMask pm b) = b := eq_of_lines fun k => by rw [getLsbD_gather, getLsbD_setMask_line h]
  rw [hor, gather_clear h, hset, drive_byte]

/-- Outside the DQ pins the mask of a byte is empty, so driving it changes no other pin (R73). -/
theorem drive_frame (w : Word32) (b : Byte) :
    (w &&& ~~~(setMask pm (~~~b)) ||| setMask pm b) &&& ~~~dqPinMask pm = w &&& ~~~dqPinMask pm := by
  have hsub : ∀ (c : Byte) (i : Nat), (dqPinMask pm).getLsbD i = false → (setMask pm c).getLsbD i = false := by
    intro c i hi
    by_contra hc
    obtain ⟨k, -, rfl⟩ := (getLsbD_setMask h c i).1 (by simpa using hc)
    exact absurd ((getLsbD_dqPinMask h _).2 ⟨k, rfl⟩) (by rw [hi]; exact Bool.false_ne_true)
  refine BitVec.eq_of_getLsbD_eq fun i hlt => ?_
  simp only [BitVec.getLsbD_and, BitVec.getLsbD_or, BitVec.getLsbD_not, hlt, decide_true, Bool.true_and]
  cases hi : (dqPinMask pm).getLsbD i with
  | true => simp
  | false => simp [hsub _ i hi]

end

/-- Settles O57: the lines of a legal pin map are distinct bits, so each bit of a mask is the bit of one line. -/
theorem drivingAByteSetsItsLines : Obligations.DrivingAByteSetsItsLines := by
  intro pm b w hv
  have h := linesDistinct_of_valid hv
  exact ⟨setMask_and_clearMask h b, setMask_or_clearMask h b, gather_clear h w b, gather_drive h w b, drive_frame h w b⟩

end Sys2Proof.Machine
end

section
/-! PROOFS. Progress (O50): soundness rules out the one fault of the engine, and a request reaches a READY block only. -/

namespace Sys2Proof.Machine

/-! ### What keeps a step from answering a next state (O50) -/

/-- The only engine step without a next state is a DQ sample while DQ are outputs (R9). -/
theorem engineStep_answers_or_samples_outputs (s : State) :
    (∃ t, engineStep s = .next t) ∨ ∃ rest, s.todo = .sampleDQ :: rest ∧ s.pins.dqDir = .out := by
  cases ht : s.todo with
  | nil => exact .inl ⟨_, engineStep_nil ht⟩
  | cons m rest =>
    cases he : m.event s.opnd.txbuf s.pins with
    | some e => exact .inl ⟨_, engineStep_event ht he⟩
    | none =>
      cases m with
      | sampleDQ =>
        cases hd : s.pins.dqDir with
        | inp => exact .inl ⟨_, engineStep_sampleDQ ht hd⟩
        | out => exact .inr ⟨rest, rfl, rfl⟩
      | clkStart => exact .inl ⟨_, engineStep_clkStart ht⟩
      | pollRb k => exact .inl ⟨_, engineStep_pollRb ht⟩
      | pollClk k => exact .inl ⟨_, engineStep_pollClk ht⟩
      | clkBusyStart => exact .inl ⟨_, engineStep_clkBusyStart ht⟩
      | clkBusyEnd => exact .inl ⟨_, engineStep_clkBusyEnd ht⟩
      | setIdx k => exact .inl ⟨_, engineStep_setIdx ht⟩
      | busySeen => exact .inl ⟨_, engineStep_busySeen ht⟩
      | setFetched => exact .inl ⟨_, engineStep_setFetched ht⟩
      | decodeStatus => exact .inl ⟨_, engineStep_decodeStatus ht⟩
      | done code => exact .inl ⟨_, engineStep_done ht⟩
      | _ => cases he

/-- Sound steps sample DQ only while they are inputs (R79). -/
theorem tailSound_sampleDQ {tx : Memory} {p : Pins} {rest : List Micro}
    (h : tailSound tx p (.sampleDQ :: rest) = true) : p.dqDir = .inp := by
  simp only [tailSound, Bool.and_eq_true, beq_iff_eq] at h
  obtain ⟨-, hdir, -⟩ := h
  exact hdir

theorem State.Sound.engineStep_answers {s : State} (hs : s.Sound) (hr : s.run = .running) :
    ∃ t, engineStep s = .next t ∧ t.Sound := by
  rcases engineStep_answers_or_samples_outputs s with ⟨t, ht⟩ | ⟨rest, htodo, hout⟩
  · exact ⟨t, ht, engineStep_sound hs hr ht⟩
  · have htail := hs.tailWhenRunning hr
    rw [htodo] at htail
    have hinp := tailSound_sampleDQ htail
    rw [hout] at hinp
    cases hinp

/-! ### Settling, going on, and requests -/

theorem State.Sound.settle_answers {s : State} (hs : s.Sound) : ∃ t, s.settle = .next t := by
  obtain ⟨t, ht, -⟩ := drive_answers (P := State.Sound)
    (fun hu hset => hu.engineStep_answers (running_of_unsettled hset)) s.fuel hs
  exact ⟨t, ht⟩

theorem State.Sound.resume_answers {s : State} (hs : s.Sound) (hr : s.run = .running) : ∃ t, resume s = .next t := by
  obtain ⟨u, hu, hsound⟩ := hs.engineStep_answers hr
  obtain ⟨t, ht⟩ := hsound.settle_answers
  exact ⟨t, by rw [resume, hu]; exact ht⟩

/-- An operation accepted by a sound block starts sound, with its `RES <- 0` as the last step (R132). -/
theorem State.Sound.accept {s : State} (hs : s.Sound) (hr : s.run = .ready) (i : Instr) :
    (s.accept (stepsOf i s ++ [.done resOk])).Sound where
  orderLawful := hs.orderLawful
  idleWhenReady := nofun
  tailWhenRunning := fun _ =>
    soundBetween_stepsOf s.opnd.txbuf i hs.orderLawful s.pins [.done resOk] (hs.idleWhenReady hr)
      fun _ hq => tailSound_early _ hq rfl false
  resKnown := rfl
  txCanonical := hs.txCanonical
  rxCanonical := hs.rxCanonical
  hostCanonical := hs.hostCanonical

/-- A READY block answers every request: it refuses it with code 5, or accepts it and settles (R132, R234). -/
theorem State.Sound.exec_answers {s : State} (hs : s.Sound) (hr : s.run = .ready) (i : Instr) :
    ∃ t, exec i s = .next t := by
  rw [exec_eq_request]
  by_cases hc : firstFailure (checksOf i s) = none
  · rw [request_accept hr hc]; exact (hs.accept hr i).settle_answers
  · exact ⟨_, request_refuse hr hc⟩

theorem State.Sound.step_answers {s : State} (hs : s.Sound) : ∃ t, step s = .next t := by
  by_cases hb : ∃ rest, s.host = .blockReset :: rest
  · obtain ⟨rest, hhost⟩ := hb
    exact ⟨_, step_blockReset hhost⟩
  cases hr : s.run with
  | running => rw [step_running hr (not_exists.1 hb)]; exact hs.resume_answers hr
  | ready =>
    cases hhost : s.host with
    | nil => exact ⟨_, step_waits hr hhost⟩
    | cons move rest =>
      cases move with
      | request r =>
        cases hd : decode r with
        | ok i => rw [step_request hr hhost hd]; exact (hs.present hr hhost).exec_answers hr i
        | error e => exact ⟨_, step_rejected hr hhost hd⟩
      | setMode m => exact ⟨_, step_setMode hr hhost⟩
      | setTiming v => exact ⟨_, step_setTiming hr hhost⟩
      | blockReset => exact absurd ⟨rest, hhost⟩ hb
      | setSlice n => exact ⟨_, step_setSlice hr hhost⟩

/-- Settles O50: the next state exists because soundness excludes the engine's one fault, and it is sound by O48. -/
theorem soundStatesAlwaysStep : Obligations.SoundStatesAlwaysStep := by
  intro s hs
  obtain ⟨t, ht⟩ := hs.step_answers
  exact ⟨t, ht, stepKeepsTheStateSound s t hs ht⟩

end Sys2Proof.Machine
end

section
/-! PROOFS. The host's address mapping (O58): little-endian bytes carry a natural up to their width. -/

namespace Sys2Proof.Machine

/-! ### Little-endian bytes (R66, R109 (b)) -/

@[simp] theorem littleEndian_length (n v : Nat) : (littleEndian n v).length = n := by simp [littleEndian]

theorem littleEndian_getElem? {n i : Nat} (hi : i < n) (v : Nat) : (littleEndian n v)[i]? = some (byteOf v i) := by
  simp [littleEndian, hi]

theorem byteOf_zero_left (k : Nat) : byteOf 0 k = 0x00 := by simp [byteOf]

theorem byteOf_succ (v k : Nat) : byteOf v (k + 1) = byteOf (v / 256) k := by
  rw [byteOf, byteOf, Nat.mul_succ, Nat.add_comm, Nat.shiftRight_add, Nat.shiftRight_eq_div_pow v 8]

/-- The first byte is the value modulo 256; the others are the bytes of what is left above it. -/
theorem littleEndian_succ (n v : Nat) : littleEndian (n + 1) v = BitVec.ofNat 8 v :: littleEndian n (v / 256) := by
  rw [littleEndian, List.range_succ_eq_map, List.map_cons, List.map_map]
  exact congrArg _ (List.map_congr_left fun k _ => byteOf_succ v k)

/-- `n` bytes carry a natural modulo 256 ^ n. -/
theorem ofLittleEndian_littleEndian (n v : Nat) : ofLittleEndian (littleEndian n v) = v % 256 ^ n := by
  induction n generalizing v with
  | zero => rw [pow_zero, Nat.mod_one]; rfl
  | succ n ih =>
    have hbyte : (BitVec.ofNat 8 v).toNat = v % 256 := BitVec.toNat_ofNat v 8
    rw [littleEndian_succ, ofLittleEndian, ih, hbyte, pow_succ', Nat.mod_mul]

/-! ### The tuples of R100 -/

theorem pageTuple_length (cc rc col row : Nat) : (pageTuple cc rc col row).length = cc + rc := by simp [pageTuple]

theorem pageTuple_getElem?_column {cc j : Nat} (hj : j < cc) (rc col row : Nat) :
    (pageTuple cc rc col row)[j]? = some (byteOf col j) := by
  rw [pageTuple, List.getElem?_append_left (by simpa using hj), littleEndian_getElem? hj]

theorem pageTuple_getElem?_row {rc i : Nat} (hi : i < rc) (cc col row : Nat) :
    (pageTuple cc rc col row)[cc + i]? = some (byteOf row i) := by
  rw [pageTuple, List.getElem?_append_right (by simp), littleEndian_length, Nat.add_sub_cancel_left,
    littleEndian_getElem? hi]

/-- Behind the column bytes stand the row bytes an erase sends. -/
theorem pageTuple_drop_column (cc rc col row : Nat) : (pageTuple cc rc col row).drop cc = eraseTuple rc row :=
  List.drop_left' (littleEndian_length cc col)

/-- A row that fits in its bytes is read back from the page tuple (R62). -/
theorem rowOfTuple_pageTuple {rc row : Nat} (h : row < 2 ^ (8 * rc)) (cc col : Nat) :
    rowOfTuple cc (pageTuple cc rc col row) = row := by
  have hwidth : (2 : Nat) ^ (8 * rc) = 256 ^ rc := pow_mul 2 8 rc
  rw [hwidth] at h
  rw [rowOfTuple, pageTuple_drop_column, eraseTuple, ofLittleEndian_littleEndian, Nat.mod_eq_of_lt h]

/-- `page < pages_per_block` makes (block, page) the quotient and the remainder of the row (R62). -/
theorem blockPageOfRow_rowAddress {ppb page : Nat} (h : page < ppb) (block : Nat) :
    blockPageOfRow ppb (rowAddress ppb block page) = (block, page) := by
  have hpos : 0 < ppb := Nat.zero_lt_of_lt h
  rw [blockPageOfRow, rowAddress, Nat.mul_add_mod_of_lt h, Nat.mul_comm, Nat.mul_add_div hpos, Nat.div_eq_of_lt h,
    Nat.add_zero]

/-- Settles O58: the tuple's bytes by position; its row bytes carry the row, whose quotient and remainder are
(block, page). -/
theorem rowAddressRoundTrip : Obligations.RowAddressRoundTrip := by
  intro ppb block page cc rc col hpage hfits
  refine ⟨pageTuple_length .., fun i hi => pageTuple_getElem?_row hi .., fun j hj => ?_,
    (pageTuple_drop_column ..).symm, ?_⟩
  · rw [pageTuple_getElem?_column hj, byteOf_zero_left]
  · rw [rowOfTuple_pageTuple (row := rowAddress ppb block page) hfits, blockPageOfRow_rowAddress hpage]

end Sys2Proof.Machine
end

section
/-! PROOFS. The request encoding (R90 to R94): the decoder by codes and by flag bits, and the round trip with the encoder. -/

namespace Sys2Proof

/-! ### The operation codes (O4) -/

/-- A code of R92 selects an operation, and no other byte does. -/
theorem decodeOp_eq_none_iff (r : Request) : decodeOp r = none ↔ r.op.toNat ∉ Machine.operationCodes := by
  unfold decodeOp
  split <;> simp_all [Machine.operationCodes]

theorem decode_illegalOp {r : Request} (h : decodeOp r = none) : decode r = .error (.illegalOp r.op) := by
  simp [decode, h]

theorem decode_reservedFlags {r : Request} {i : Instr} (h : decodeOp r = some i) (hf : r.reservedFlags ≠ 0) :
    decode r = .error (.reservedFlags r.flags) := by
  simpa [decode, h] using hf

theorem decode_ok {r : Request} {i : Instr} (h : decodeOp r = some i) (hf : r.reservedFlags = 0) : decode r = .ok i := by
  simp [decode, h, hf]

/-- A legal code selects an operation. -/
theorem decodeOp_of_mem {r : Request} (h : r.op.toNat ∈ Machine.operationCodes) : ∃ i, decodeOp r = some i := by
  rw [← Option.ne_none_iff_exists', ne_eq, decodeOp_eq_none_iff, not_not]
  exact h

/-- Settles O4: the code is checked first, then the reserved flag bits, and nothing else (R226). -/
theorem decoderRejectsByName : Obligations.DecoderRejectsByName := by
  intro r
  refine ⟨⟨fun h hop => ?_, fun h => decode_illegalOp ((decodeOp_eq_none_iff r).2 h)⟩,
    fun hop => ⟨fun h hf => ?_, fun hf => ?_⟩, fun hop hf => ?_⟩
  · obtain ⟨i, hi⟩ := decodeOp_of_mem hop
    by_cases hf : r.reservedFlags = 0
    · rw [decode_ok hi hf] at h; cases h
    · rw [decode_reservedFlags hi hf] at h; cases h
  · obtain ⟨i, hi⟩ := decodeOp_of_mem hop
    rw [decode_ok hi hf] at h; cases h
  · obtain ⟨i, hi⟩ := decodeOp_of_mem hop
    exact decode_reservedFlags hi hf
  · obtain ⟨i, hi⟩ := decodeOp_of_mem hop
    exact ⟨i, decode_ok hi hf⟩

/-! ### The flag byte (R91) -/

section
variable (jedec bytewise pre00 fetch timeoutEn : Bool)

@[simp] theorem encodeFlags_jedec : (encodeFlags jedec bytewise pre00 fetch timeoutEn)[0] = jedec := by
  revert jedec bytewise pre00 fetch timeoutEn; decide

@[simp] theorem encodeFlags_bytewise : (encodeFlags jedec bytewise pre00 fetch timeoutEn)[1] = bytewise := by
  revert jedec bytewise pre00 fetch timeoutEn; decide

@[simp] theorem encodeFlags_pre00 : (encodeFlags jedec bytewise pre00 fetch timeoutEn)[2] = pre00 := by
  revert jedec bytewise pre00 fetch timeoutEn; decide

@[simp] theorem encodeFlags_fetch : (encodeFlags jedec bytewise pre00 fetch timeoutEn)[3] = fetch := by
  revert jedec bytewise pre00 fetch timeoutEn; decide

@[simp] theorem encodeFlags_timeoutEn : (encodeFlags jedec bytewise pre00 fetch timeoutEn)[4] = timeoutEn := by
  revert jedec bytewise pre00 fetch timeoutEn; decide

end

/-- A flag bit and the field read only under it carry an optional operand: CCYC under BYTEWISE, TIMEOUT under
TIMEOUT_EN (R92). -/
theorem some_getD_of_isSome {α : Type} (o : Option α) (d : α) : (if o.isSome then some (o.getD d) else none) = o := by
  cases o <;> rfl

/-! ### The round trip (O2) -/

/-- The encoding carries its code and every operand the row reads. -/
theorem decodeOp_encode (i : Instr) : decodeOp (encode i) = some i := by
  cases i with
  | waitReady limit =>
    have hlimit : (encode (.waitReady limit)).limit = limit := by
      simp [encode, Request.limit, Request.timeoutEn, some_getD_of_isSome]
    exact congrArg (fun o => some (Instr.waitReady o)) hlimit
  | readParameterPage jedec bytewise =>
    have hjedec : (encode (.readParameterPage jedec bytewise)).jedec = jedec := by simp [encode, Request.jedec]
    have hcycles : (encode (.readParameterPage jedec bytewise)).columnCycles = bytewise := by
      simp [encode, Request.columnCycles, Request.bytewise, some_getD_of_isSome]
    exact congrArg₂ (fun j o => some (Instr.readParameterPage j o)) hjedec hcycles
  | pageRead a n c pre00 bytewise =>
    have hpre00 : (encode (.pageRead a n c pre00 bytewise)).pre00 = pre00 := by simp [encode, Request.pre00]
    have hcycles : (encode (.pageRead a n c pre00 bytewise)).columnCycles = bytewise := by
      simp [encode, Request.columnCycles, Request.bytewise, some_getD_of_isSome]
    exact congrArg₂ (fun p o => some (Instr.pageRead a n c p o)) hpre00 hcycles
  | tRead a n c pre00 fetch ta tc =>
    have hpre00 : (encode (.tRead a n c pre00 fetch ta tc)).pre00 = pre00 := by simp [encode, Request.pre00]
    have hfetch : (encode (.tRead a n c pre00 fetch ta tc)).fetch = fetch := by simp [encode, Request.fetch]
    exact congrArg₂ (fun p f => some (Instr.tRead a n c p f ta tc)) hpre00 hfetch
  | _ => rfl

theorem encode_reservedFlags (i : Instr) : (encode i).reservedFlags = 0 := by
  cases i with
  | waitReady | readParameterPage | pageRead | tRead => exact encodeFlags_reserved ..
  | _ => exact no_reserved_flags

/-- The code of an encoding is one of R92's, since it selects an operation. -/
theorem encode_op_mem (i : Instr) : (encode i).op.toNat ∈ Machine.operationCodes := by
  by_contra hop
  rw [← decodeOp_eq_none_iff, decodeOp_encode] at hop
  cases hop

/-- Settles O2: an encoding selects its operation with its operands, and passes the check of the flags. -/
theorem decodeInvertsEncode : Obligations.DecodeInvertsEncode := fun i =>
  ⟨decode_ok (decodeOp_encode i) (encode_reservedFlags i), encode_op_mem i, encode_reservedFlags i⟩

/-! ### Flag bits that are not read (O3) -/

/-- Bytes that agree under a mask agree at each of its bits. -/
theorem getLsbD_eq_of_and_eq {a b m : Byte} (h : a &&& m = b &&& m) {k : Nat} (hk : m.getLsbD k = true) :
    a.getLsbD k = b.getLsbD k := by
  simpa only [BitVec.getLsbD_and, hk, Bool.and_true] using congrArg (BitVec.getLsbD · k) h

/-- CCYC is read under BYTEWISE alone. -/
theorem Request.columnCycles_congr_flags {r : Request} {flags : Byte} (h : flags.getLsbD 1 = r.flags.getLsbD 1) :
    Request.columnCycles { r with flags := flags } = r.columnCycles := by
  show (if flags.getLsbD 1 then some r.ccyc else none) = if r.flags.getLsbD 1 then some r.ccyc else none
  rw [h]

/-- TIMEOUT is read under TIMEOUT_EN alone. -/
theorem Request.limit_congr_flags {r : Request} {flags : Byte} (h : flags.getLsbD 4 = r.flags.getLsbD 4) :
    Request.limit { r with flags := flags } = r.limit := by
  show (if flags.getLsbD 4 then some r.timeout else none) = if r.flags.getLsbD 4 then some r.timeout else none
  rw [h]

/-- Four rows of R92 read flag bits; under any other code the flag byte selects nothing. -/
theorem decodeOp_flags_unread {r : Request} (hwait : r.op.toNat ≠ 0x05) (hpage : r.op.toNat ≠ 0x13)
    (hread : r.op.toNat ≠ 0x14) (htimed : r.op.toNat ≠ 0x20) (flags : Byte) :
    decodeOp { r with flags := flags } = decodeOp r := by
  unfold decodeOp
  split <;> simp_all

/-- The operation a code selects depends on those flag bits only that its row reads (R92). -/
theorem decodeOp_congr_flags {r : Request} {flags : Byte}
    (h : flags &&& Machine.flagsRead r.op.toNat = r.flags &&& Machine.flagsRead r.op.toNat) :
    decodeOp { r with flags := flags } = decodeOp r := by
  have bit (k : Nat) (hk : (Machine.flagsRead r.op.toNat).getLsbD k = true) : flags.getLsbD k = r.flags.getLsbD k :=
    getLsbD_eq_of_and_eq h hk
  by_cases hwait : r.op.toNat = 0x05
  · have htimeoutEn := bit 4 (by rw [hwait]; rfl)
    simp only [decodeOp, hwait, Request.limit_congr_flags htimeoutEn]
  by_cases hpage : r.op.toNat = 0x13
  · have hjedec := bit 0 (by rw [hpage]; rfl)
    have hbytewise := bit 1 (by rw [hpage]; rfl)
    simp only [decodeOp, hpage, Request.jedec, hjedec, Request.columnCycles_congr_flags hbytewise]
  by_cases hread : r.op.toNat = 0x14
  · have hbytewise := bit 1 (by rw [hread]; rfl)
    have hpre00 := bit 2 (by rw [hread]; rfl)
    simp only [decodeOp, hread, Request.pre00, hpre00, Request.columnCycles_congr_flags hbytewise]
  by_cases htimed : r.op.toNat = 0x20
  · have hpre00 := bit 2 (by rw [htimed]; rfl)
    have hfetch := bit 3 (by rw [htimed]; rfl)
    simp only [decodeOp, htimed, Request.pre00, Request.fetch, hpre00, hfetch]
  exact decodeOp_flags_unread hwait hpage hread htimed flags

/-- Settles O3: both requests pass the check of the reserved bits, and their codes select the same operation. -/
theorem decodeIgnoresUnreadFlags : Obligations.DecodeIgnoresUnreadFlags := by
  intro r flags hr hflags hread
  have hop := decodeOp_congr_flags hread
  cases hi : decodeOp r with
  | none => rw [decode_illegalOp hi, decode_illegalOp (hop.trans hi)]
  | some i => rw [decode_ok hi hr, decode_ok (hop.trans hi) hflags]

/-! ### Written-out requests (O1) -/

/-- Settles O1: `OP` and FLAGS as written out select the rows of R92, each by evaluating the decoder. -/
theorem decodeOperationCodes : Obligations.DecodeOperationCodes := by
  refine ⟨?idle, ?measureBusy, ?reset, ?partialProgram, ?tErase, ?illegal, ?pageRead, ?tRead⟩ <;> decide

end Sys2Proof
end

section
/-! PROOFS. The legality of every event of a step (R33, R41, R79, R97), read off the sound steps left. -/

namespace Sys2Proof.Machine

/-! ### Runs of legal events (O52) -/

/-- The trace grew by a run of events that is legal from the pins of `s` and leads to those of `t` (R33, R79, R97). -/
def DrivesLegally (s t : State) : Prop :=
  ∃ es, t.trace = s.trace ++ es ∧ alongTrace legalEvent s.pins es = true ∧ pinsAfter s.pins es = t.pins

theorem DrivesLegally.of_silent {s t : State} (htr : t.trace = s.trace) (hp : t.pins = s.pins) : DrivesLegally s t :=
  ⟨[], by simp [htr], rfl, hp.symm⟩

theorem DrivesLegally.of_event {s t : State} {e : Event} (he : legalEvent s.pins e = true)
    (htr : t.trace = s.trace ++ [e]) (hp : t.pins = e.onPins s.pins) : DrivesLegally s t :=
  ⟨[e], htr, by simp [alongTrace, he], hp.symm⟩

theorem DrivesLegally.trans {s t u : State} (h : DrivesLegally s t) (h' : DrivesLegally t u) : DrivesLegally s u := by
  obtain ⟨es, htr, hlegal, hpins⟩ := h
  obtain ⟨fs, htr', hlegal', hpins'⟩ := h'
  refine ⟨es ++ fs, by rw [htr', htr, List.append_assoc], ?_, by rw [pinsAfter_append, hpins, hpins']⟩
  rw [alongTrace_append, hpins, hlegal, hlegal']; rfl

/-! ### The next event of sound steps -/

theorem tailSound_legal {tx : Memory} {p : Pins} {m : Micro} {rest : List Micro}
    (h : tailSound tx p (m :: rest) = true) : p.legal = true := by
  rw [tailSound.eq_def, Bool.and_eq_true] at h
  exact h.1

/-- Sound steps perform legal events only: the pins are legal at each, and a byte is driven only on outputs (R41). -/
theorem legalEvent_of_tailSound {tx : Memory} {p : Pins} {m : Micro} {e : Event} {rest : List Micro}
    (he : m.event tx p = some e) (h : tailSound tx p (m :: rest) = true) : legalEvent p e = true := by
  have hlegal := tailSound_legal h
  cases m with
  | dqClr | dqSet | txClr | txSet =>
    cases he
    simp only [tailSound, Bool.and_eq_true] at h
    obtain ⟨-, hdir, -⟩ := h
    simp [legalEvent, hlegal, hdir]
  | w | wInv | dirDQ | dirStrobe | dly | spin => cases he; simp [legalEvent, hlegal]
  | _ => cases he

theorem engineStep_drivesLegally {s t : State} (hs : s.Sound) (hr : s.run = .running) (h : engineStep s = .next t) :
    DrivesLegally s t := by
  have htail := hs.tailWhenRunning hr
  cases engineStep_effect h with
  | ends code hm ht => subst ht; exact .of_silent rfl rfl
  | assigns m rest x r f hm hassign ht => subst ht; exact .of_silent rfl rfl
  | drives m rest e hm he ht =>
    rw [hm] at htail
    subst ht
    exact .of_event (legalEvent_of_tailSound he htail) rfl rfl
  | samplesDq rest hm ht =>
    rw [hm] at htail
    subst ht
    exact .of_event (e := .dq _) (by simp [legalEvent, tailSound_legal htail, tailSound_sampleDQ htail]) rfl rfl
  | samplesRb k rest td q hm hc ht =>
    rw [hm] at htail
    subst ht
    exact .of_event (e := .rb _) (by simp [legalEvent, tailSound_legal htail]) rfl rfl
  | readsClock m rest td q r a b hm hclk hc ht =>
    rw [hm] at htail
    subst ht
    exact .of_event (e := .clk _) (by simp [legalEvent, tailSound_legal htail]) rfl rfl

/-! ### Every step -/

/-- A sound block reached from `s` by legal events alone: what every engine step keeps. -/
def SoundlyDriven (s t : State) : Prop := t.Sound ∧ DrivesLegally s t

theorem SoundlyDriven.engineStep {s t u : State} (ht : SoundlyDriven s t) (hr : t.run = .running)
    (h : engineStep t = .next u) : SoundlyDriven s u := by
  obtain ⟨hsound, hlegal⟩ := ht
  exact ⟨engineStep_sound hsound hr h, hlegal.trans (engineStep_drivesLegally hsound hr h)⟩

theorem State.Sound.resume_drivesLegally {s t : State} (hs : s.Sound) (hr : s.run = .running) (h : resume s = .next t) :
    DrivesLegally s t := by
  have hdriven : SoundlyDriven s t :=
    resume_induction (P := SoundlyDriven s) SoundlyDriven.engineStep ⟨hs, .of_silent rfl rfl⟩ hr h
  exact hdriven.2

theorem State.Sound.exec_drivesLegally {i : Instr} {s t : State} (hs : s.Sound) (hr : s.run = .ready)
    (h : exec i s = .next t) : DrivesLegally s t := by
  rw [exec_eq_request] at h
  rcases request_cases h with ⟨-, ⟨-, rfl⟩ | ⟨-, ha⟩⟩
  · exact .of_silent rfl rfl
  · have hdriven : SoundlyDriven s t :=
      drive_induction (P := SoundlyDriven s) (fun hp hu => hp.engineStep (running_of_unsettled hu))
        ⟨hs.accept hr i, .of_silent rfl rfl⟩ ha
    exact hdriven.2

/-- Settles O52: the events are those of engine steps from sound states; the host's moves other than `BLOCK_RESET` add
none and leave the pins alone. -/
theorem stepsDriveTheBusLegally : Obligations.StepsDriveTheBusLegally := by
  intro s t hs hnoReset h
  show DrivesLegally s t
  cases step_effect h with
  | blockReset rest hh ht => rw [hh] at hnoReset; exact absurd rfl hnoReset
  | resumes hr ht => exact hs.resume_drivesLegally hr ht
  | requests r rest i hr hh hd ht =>
    have hpresent : DrivesLegally s (({ s with host := rest }).present r) := .of_silent rfl rfl
    exact hpresent.trans ((hs.present hr hh).exec_drivesLegally hr ht)
  | rejects r rest hr hh ht => subst ht; exact .of_silent rfl rfl
  | setsMode m rest hr hh ht => subst ht; exact .of_silent rfl rfl
  | setsTiming v rest hr hh ht => subst ht; exact .of_silent rfl rfl
  | setsSlice n rest hr hh ht => subst ht; exact .of_silent rfl rfl
  | waits hr hh ht => subst ht; exact .of_silent rfl rfl

end Sys2Proof.Machine
end

section
/-! PROOFS. Refusals with code 5 (R93, R132): the checks of R226 against the ranges, and what the decoder rejects. -/

namespace Sys2Proof.Machine

/-! ### Operands out of range (O6) -/

/-- The checks of R226 pass exactly when every operand is inside its range (R93). -/
theorem checksOf_pass_iff (i : Instr) (s : State) :
    firstFailure (checksOf i s) = none ↔ i.wellFormed s.mode s.maxBurst = true := by
  rw [firstFailure_none_iff]
  cases i <;> simp [checksOf, Instr.wellFormed, and_assoc]

/-- Settles O6: a request with an operand out of range fails a check, and a failed check refuses it (R132). -/
theorem outOfRangeOperandsRefused : Obligations.OutOfRangeOperandsRefused := by
  intro i s hr hi
  have hfails : firstFailure (checksOf i s) ≠ none := by
    rw [ne_eq, checksOf_pass_iff, hi]; exact Bool.false_ne_true
  rw [exec_eq_request, request_refuse hr hfails]
  rfl

/-! ### Requests the decoder rejects (O5) -/

/-- Settles O5: the step of a rejected request, and what refusing it leaves. -/
theorem rejectedRequestSetsCodeFive : Obligations.RejectedRequestSetsCodeFive := by
  intro s r rest e hr hhost hd
  rw [step_rejected hr hhost hd]
  rfl

end Sys2Proof.Machine
end

section
/-! PROOFS. Runs whose events are known one by one: the trace of every primitive of file 40 that no bound ends, written
out, and what the request leaves. -/

namespace Sys2Proof.Machine

/-! ### Events that script the environment -/

/-- The R/B# levels sampled in a run of events, in order. -/
def rbLevels (es : List Event) : List Level :=
  es.filterMap fun e => match e with | .rb v => some v | _ => none

/-- The DQ bytes sampled in a run of events, in order. -/
def dqBytes (es : List Event) : List Byte :=
  es.filterMap fun e => match e with | .dq b => some b | _ => none

@[simp] theorem rbLevels_nil : rbLevels [] = [] := rfl
@[simp] theorem dqBytes_nil : dqBytes [] = [] := rfl

@[simp] theorem rbLevels_append (es fs : List Event) : rbLevels (es ++ fs) = rbLevels es ++ rbLevels fs :=
  List.filterMap_append

@[simp] theorem dqBytes_append (es fs : List Event) : dqBytes (es ++ fs) = dqBytes es ++ dqBytes fs :=
  List.filterMap_append

/-- An event of an entry that takes no sample is no sample. -/
theorem samples_of_event {m : Micro} {tx : Memory} {p : Pins} {e : Event} (h : m.event tx p = some e) (es : List Event) :
    rbLevels (e :: es) = rbLevels es ∧ dqBytes (e :: es) = dqBytes es := by
  cases m <;> simp only [Micro.event, reduceCtorEq, Option.some.injEq] at h <;> subst h <;> exact ⟨rfl, rfl⟩

/-- An entry with an event of its own is none of a polling loop. -/
theorem polls_of_event {m : Micro} {tx : Memory} {p : Pins} {e : Event} (h : m.event tx p = some e) : m.polls = false := by
  cases m with
  | pollRb | pollClk => cases h
  | _ => rfl

/-- `Plays tx p ms es`: from the pins `p` the entries `ms` perform exactly the events `es`, if the environment answers the
samples that stand in `es`. -/
inductive Plays (tx : Memory) : Pins → List Micro → List Event → Prop
  | nil (p : Pins) : Plays tx p [] []
  | setIdx {p : Pins} {ms : List Micro} {es : List Event} (k : Nat) (h : Plays tx p ms es) :
      Plays tx p (.setIdx k :: ms) es
  | event {p : Pins} {m : Micro} {ms : List Micro} {e : Event} {es : List Event} (he : m.event tx p = some e)
      (h : Plays tx (e.onPins p) ms es) : Plays tx p (m :: ms) (e :: es)
  | sample {p : Pins} {ms : List Micro} {es : List Event} (b : Byte) (hd : p.dqDir = .inp) (h : Plays tx p ms es) :
      Plays tx p (.sampleDQ :: ms) (.dq b :: es)
  | busy {p : Pins} {ms : List Micro} {es : List Event} (h : Plays tx p (.pollRb .untilReady :: ms) es) :
      Plays tx p (.pollRb .untilReady :: ms) (.rb false :: es)
  | ready {p : Pins} {ms : List Micro} {es : List Event} (h : Plays tx p ms es) :
      Plays tx p (.pollRb .untilReady :: ms) (.rb true :: es)

theorem Plays.append {tx : Memory} {p : Pins} {ms ns : List Micro} {es fs : List Event} (h : Plays tx p ms es)
    (h' : Plays tx (pinsAfter p es) ns fs) : Plays tx p (ms ++ ns) (es ++ fs) := by
  induction h with
  | nil => exact h'
  | setIdx k _ ih => exact .setIdx k (ih h')
  | event he _ ih => exact .event he (ih h')
  | sample b hd _ ih => exact .sample b hd (ih h')
  | busy _ ih => exact .busy (ih h')
  | ready _ ih => exact .ready (ih h')

/-- A straight line of entries plays its events. -/
theorem Plays.of_lineEvents {tx : Memory} {p : Pins} {ms : List Micro} {es : List Event}
    (h : lineEvents tx p ms = some es) : Plays tx p ms es := by
  induction ms generalizing p es with
  | nil => cases h; exact .nil p
  | cons m ms ih =>
    cases he : m.event tx p with
    | some e =>
      rw [lineEvents_event he, Option.map_eq_some_iff] at h
      obtain ⟨fs, hfs, rfl⟩ := h
      exact .event he (ih hfs)
    | none =>
      cases m <;> simp [lineEvents, Micro.event] at h he
      exact .setIdx _ (ih h)

/-! ### The engine plays them -/

/-- The state after a run of events, its sequencer aside: trace and pins, RXBUF and the answers used up. -/
def State.played (s : State) (es : List Event) : State :=
  { s.received (dqBytes es).length with
    trace := s.trace ++ es, pins := pinsAfter s.pins es,
    env := { (s.received (dqBytes es).length).env with
      rb := s.env.rb.drop (rbLevels es).length, rbN := s.env.rbN + (rbLevels es).length } }

/-- The same state with the sequencer elsewhere. -/
def State.sequencerAt (s : State) (todo : List Micro) (seq idx : Nat) : State :=
  { s with todo := todo, seq := seq, idx := idx }

/-- The environment answers the samples of a run of events, and RXBUF has room for its bytes. -/
structure Answers (s : State) (es : List Event) : Prop where
  rb : rbLevels es <+: s.env.rb
  dq : dqAnswers s (dqBytes es).length = dqBytes es
  room : s.rxlen.toNat + (dqBytes es).length < 2 ^ 32

theorem dqBytes_dq (b : Byte) (es : List Event) : dqBytes (.dq b :: es) = b :: dqBytes es := rfl
theorem rbLevels_dq (b : Byte) (es : List Event) : rbLevels (.dq b :: es) = rbLevels es := rfl
theorem dqBytes_rb (v : Level) (es : List Event) : dqBytes (.rb v :: es) = dqBytes es := rfl
theorem rbLevels_rb (v : Level) (es : List Event) : rbLevels (.rb v :: es) = v :: rbLevels es := rfl

theorem State.played_nil (s : State) : s.played [] = s := by
  simp [State.played, pinsAfter]

/-- An event that is no sample, then the others. -/
theorem State.played_event (s : State) {e : Event} {es : List Event} (hrb : rbLevels (e :: es) = rbLevels es)
    (hdq : dqBytes (e :: es) = dqBytes es) (ms td : List Micro) (q x : Nat) :
    ((({ s with todo := ms }).emit e).played es).sequencerAt td q x = (s.played (e :: es)).sequencerAt td q x := by
  rw [State.played, State.played, hrb, hdq]
  simp [State.received, State.sequencerAt, State.emit, pinsAfter, dqAnswers]

/-- An R/B# sample, then the other events. -/
theorem State.played_rb (s : State) (es : List Event) (ms ns td : List Micro) (y q x : Nat) :
    (({ State.sampleRb { s with todo := ms } with todo := ns, seq := y }).played es).sequencerAt td q x =
      (s.played (.rb s.nextRb :: es)).sequencerAt td q x := by
  rw [State.played, State.played, dqBytes_rb, rbLevels_rb]
  simp [State.received, State.sequencerAt, State.sampleRb, State.emit, pinsAfter, dqAnswers, Event.onPins,
    State.nextRb, Nat.add_assoc, Nat.add_comm 1]

/-- A DQ sample, then the other events. -/
theorem State.played_dq (s : State) (es : List Event) (ms td : List Micro) (q x : Nat)
    (hroom : s.rxlen.toNat + 1 < 2 ^ 32) :
    ((State.sampleDq { s with todo := ms }).played es).sequencerAt td q x =
      (s.played (.dq s.nextDq :: es)).sequencerAt td q x := by
  rw [State.played, State.played, dqBytes_dq, rbLevels_dq, List.length_cons, State.received_succ s _ hroom]
  simp [State.received, State.sequencerAt, State.sampleDq, State.emit, pinsAfter, dqAnswers, Event.onPins,
    State.nextDq]

/-- A sample of R/B# by an unbounded wait: it goes round on 0 and is left on 1 (R125, R128). -/
theorem engineStep_untilReady {s : State} {rest : List Micro} {v : Level} {vs : List Level}
    (ht : s.todo = .pollRb .untilReady :: rest) (he : s.env.rb = v :: vs) :
    ∃ y, engineStep s = .next { State.sampleRb { s with todo := rest } with
      todo := if v then rest else s.todo, seq := y } := by
  have hn : State.nextRb { s with todo := rest } = v := State.nextRb_cons (s := { s with todo := rest }) he
  rw [engineStep_pollRb ht, ht]
  rcases pollSample_cases .untilReady { s with todo := rest } with ⟨hw, y, hq⟩ | ⟨hw, -, hq⟩ | ⟨-, hb, -⟩
  · have hv : v = true := hn.symm.trans hw
    exact ⟨y, by rw [hq, hv]; rfl⟩
  · have hv : v = false := by rw [hn] at hw; simpa [Poll.want] using hw
    exact ⟨_, by rw [hq, hv]; rfl⟩
  · exact absurd rfl hb

/-- The answers depend on the scripts and on `RXLEN` alone. -/
theorem Answers.congr {s t : State} {es : List Event} (h : Answers s es) (henv : t.env = s.env) (hlen : t.rxlen = s.rxlen) :
    Answers t es :=
  ⟨henv ▸ h.rb, (dqAnswers_congr (by rw [henv]) (by rw [henv]) _).trans h.dq, hlen ▸ h.room⟩

theorem Answers.event {s : State} {e : Event} {es : List Event} (h : Answers s (e :: es))
    (hs : rbLevels (e :: es) = rbLevels es ∧ dqBytes (e :: es) = dqBytes es) : Answers s es := by
  obtain ⟨hrb, hdq, hroom⟩ := h
  rw [hs.1] at hrb
  rw [hs.2] at hdq hroom
  exact ⟨hrb, hdq, hroom⟩

/-- The next R/B# answer is the one in the run; after it the others are. -/
theorem Answers.rb_cons {s : State} {v : Level} {es : List Event} (h : Answers s (.rb v :: es)) (ms ns : List Micro)
    (y : Nat) :
    ∃ vs, s.env.rb = v :: vs ∧ Answers { State.sampleRb { s with todo := ms } with todo := ns, seq := y } es := by
  obtain ⟨hrb, hdq, hroom⟩ := h
  obtain ⟨vs, hvs⟩ := hrb
  refine ⟨rbLevels es ++ vs, hvs.symm, ⟨vs, ?_⟩, hdq, hroom⟩
  simp [← hvs, rbLevels_rb]

/-- The next DQ answer is the one in the run; after it the others are. -/
theorem Answers.dq_cons {s : State} {b : Byte} {es : List Event} (h : Answers s (.dq b :: es)) (ms : List Micro) :
    s.nextDq = b ∧ s.rxlen.toNat + 1 < 2 ^ 32 ∧ Answers (State.sampleDq { s with todo := ms }) es := by
  obtain ⟨hrb, hdq, hroom⟩ := h
  rw [dqBytes_dq, List.length_cons, dqAnswers_succ, List.cons.injEq] at hdq
  rw [dqBytes_dq, List.length_cons] at hroom
  have hlen : (s.rxlen + 1).toNat = s.rxlen.toNat + 1 := by
    rw [BitVec.toNat_add]; exact Nat.mod_eq_of_lt (by simp; omega)
  refine ⟨hdq.1, by omega, hrb, hdq.2, ?_⟩
  rw [State.sampleDq_rxlen, hlen]
  omega

/-- The engine performs the events its entries play. -/
theorem Path.plays {ms rest : List Micro} {es : List Event} {s : State} (hr : s.run = .running)
    (ht : s.todo = ms ++ rest) (h : Plays s.opnd.txbuf s.pins ms es) (ha : Answers s es) :
    ∃ q x, Path s ((s.played es).sequencerAt rest q x) := by
  generalize htx : s.opnd.txbuf = tx at h
  generalize hp : s.pins = p at h
  induction h generalizing s with
  | nil =>
    refine ⟨s.seq, s.idx, ?_⟩
    rw [State.played_nil, State.sequencerAt]
    cases s; cases ht; exact .refl _
  | @setIdx p ms es k h ih =>
    obtain ⟨q, x, hpath⟩ := ih (s := { s with todo := ms ++ rest, idx := k }) hr rfl (ha.congr rfl rfl) htx hp
    exact ⟨q, x, .step (unsettled_of_entry hr ht rfl) (engineStep_setIdx ht) hpath⟩
  | @event p m ms e es he h ih =>
    have hs := samples_of_event he es
    obtain ⟨q, x, hpath⟩ := ih (s := ({ s with todo := ms ++ rest }).emit e) hr rfl ((ha.event hs).congr rfl rfl) htx
      (by rw [← hp]; rfl)
    rw [s.played_event hs.1 hs.2] at hpath
    subst htx hp
    exact ⟨q, x, .step (unsettled_of_entry hr ht (polls_of_event he)) (engineStep_event ht he) hpath⟩
  | @sample p ms es b hd h ih =>
    obtain ⟨hb, hroom, ha'⟩ := ha.dq_cons (ms ++ rest)
    obtain ⟨q, x, hpath⟩ := ih (s := State.sampleDq { s with todo := ms ++ rest }) hr rfl ha' htx hp
    rw [s.played_dq _ _ _ _ _ hroom, hb] at hpath
    exact ⟨q, x, .step (unsettled_of_entry hr ht rfl) (engineStep_sampleDQ ht (hp ▸ hd)) hpath⟩
  | @busy p ms es h ih =>
    obtain ⟨vs, hvs, -⟩ := ha.rb_cons (ms ++ rest) s.todo 0
    obtain ⟨y, hstep⟩ := engineStep_untilReady ht hvs
    obtain ⟨-, -, ha'⟩ := ha.rb_cons (ms ++ rest) s.todo y
    obtain ⟨q, x, hpath⟩ := ih (s := { State.sampleRb { s with todo := ms ++ rest } with todo := s.todo, seq := y })
      hr ht ha' htx hp
    rw [s.played_rb, State.nextRb_cons hvs] at hpath
    exact ⟨q, x, .step (unsettled_of_script hr hvs) hstep hpath⟩
  | @ready p ms es h ih =>
    obtain ⟨vs, hvs, -⟩ := ha.rb_cons (ms ++ rest) s.todo 0
    obtain ⟨y, hstep⟩ := engineStep_untilReady ht hvs
    obtain ⟨-, -, ha'⟩ := ha.rb_cons (ms ++ rest) (ms ++ rest) y
    obtain ⟨q, x, hpath⟩ := ih (s := { State.sampleRb { s with todo := ms ++ rest } with todo := ms ++ rest, seq := y })
      hr rfl ha' htx hp
    rw [s.played_rb, State.nextRb_cons hvs] at hpath
    exact ⟨q, x, .step (unsettled_of_script hr hvs) hstep hpath⟩

/-! ### What a request that plays its events leaves -/

/-- What the run of an operation leaves whose events are known: READY with `RES` = 0, the bytes of the DQ samples in
RXBUF, no record, and so many samples taken. -/
structure PlayedOut (s t : State) (es : List Event) : Prop where
  ended : Ended s t 0
  pins : t.pins = pinsAfter s.pins es
  trace : t.trace = s.trace ++ es
  rxbuf : t.rxbuf = Memory.writeList s.rxbuf 0 (dqBytes es)
  rxlen : t.rxlen = BitVec.ofNat 32 (dqBytes es).length
  noRecord : NoRecord t
  sampled : Sampled s t (rbLevels es).length (dqBytes es).length

/-- A run without DQ samples receives nothing. -/
theorem PlayedOut.nothingReceived {s t : State} {es : List Event} (h : PlayedOut s t es) (hdq : dqBytes es = []) :
    NothingReceived s t :=
  ⟨by rw [h.rxlen, hdq]; rfl, by rw [h.rxbuf, hdq]; rfl⟩

/-- The samples of a run are the bytes received (R43, R65). -/
theorem PlayedOut.received {s t : State} {es : List Event} (h : PlayedOut s t es) (hwf : Memory.wf s.rxbuf = true)
    (hroom : (dqBytes es).length < 2 ^ 32) : Received s t (dqBytes es) :=
  received_writeList _ hwf h.rxbuf (by rw [h.rxlen, BitVec.toNat_ofNat, Nat.mod_eq_of_lt hroom])

/-- A request inside its ranges whose steps play events that the environment answers ends with them. -/
theorem exec_plays {i : Instr} {s : State} {es : List Event} (hr : s.run = .ready) (hsl : s.slice = none)
    (hi : i.wellFormed s.mode s.maxBurst = true) (h : Plays s.opnd.txbuf s.pins (stepsOf i s) es)
    (hrb : rbLevels es <+: s.env.rb) (hdq : dqAnswers s (dqBytes es).length = dqBytes es)
    (hroom : (dqBytes es).length < 2 ^ 32) : ∃ t, exec i s = .next t ∧ PlayedOut s t es := by
  let u := s.accept (stepsOf i s ++ [.done resOk])
  have ha : Answers u es := ⟨hrb, hdq, by simpa [u] using hroom⟩
  obtain ⟨q, x, hpath⟩ := Path.plays (s := u) (rest := [.done resOk]) rfl rfl h ha
  have hrun : Run u ((u.played es).sequencerAt [.done resOk] q x) (observe s.pins es) := ⟨hpath, es, rfl, rfl, rfl⟩
  rw [exec_eq_request]
  refine ⟨_, (request_ends hr hsl ((checksOf_pass_iff i s).2 hi) hrun rfl rfl).1, ?_⟩
  have hdq' : dqAnswers u (dqBytes es).length = dqBytes es := hdq
  exact
    { ended := ⟨rfl, rfl, rfl, rfl, rfl, rfl, rfl, rfl, rfl⟩
      pins := rfl
      trace := rfl
      rxbuf := congrArg (Memory.writeList s.rxbuf 0) hdq'
      rxlen := BitVec.zero_add _
      noRecord := ⟨rfl, rfl⟩
      sampled := ⟨rfl, rfl⟩ }

/-! ### Straight lines: operations that take no sample -/

theorem lineEvents_append_some {tx : Memory} {p : Pins} {ms ns : List Micro} {es fs : List Event}
    (h : lineEvents tx p ms = some es) (h' : lineEvents tx (pinsAfter p es) ns = some fs) :
    lineEvents tx p (ms ++ ns) = some (es ++ fs) := by
  rw [lineEvents_append tx p ms ns h, h']; rfl

/-- The events of a straight line are no samples. -/
theorem samples_of_lineEvents {tx : Memory} {p : Pins} {ms : List Micro} {es : List Event}
    (h : lineEvents tx p ms = some es) : rbLevels es = [] ∧ dqBytes es = [] := by
  induction ms generalizing p es with
  | nil => cases h; exact ⟨rfl, rfl⟩
  | cons m ms ih =>
    cases he : m.event tx p with
    | some e =>
      rw [lineEvents_event he, Option.map_eq_some_iff] at h
      obtain ⟨fs, hfs, rfl⟩ := h
      obtain ⟨hrb, hdq⟩ := samples_of_event he fs
      obtain ⟨irb, idq⟩ := ih hfs
      exact ⟨hrb.trans irb, hdq.trans idq⟩
    | none =>
      cases m <;> simp [lineEvents, Micro.event] at h he
      exact ih h

/-- A request inside its ranges whose steps are a straight line performs exactly its events, and nothing else changes. -/
theorem exec_line {i : Instr} {s : State} {es : List Event} (hr : s.run = .ready) (hsl : s.slice = none)
    (hi : i.wellFormed s.mode s.maxBurst = true) (h : lineEvents s.opnd.txbuf s.pins (stepsOf i s) = some es) :
    ∃ t, exec i s = .next t ∧ Ended s t 0 ∧ t.pins = pinsAfter s.pins es ∧ t.trace = s.trace ++ es ∧
      NothingReceived s t ∧ NoRecord t ∧ Sampled s t 0 0 := by
  obtain ⟨hrb, hdq⟩ := samples_of_lineEvents h
  obtain ⟨t, ht, hout⟩ := exec_plays hr hsl hi (.of_lineEvents h) (by simp [hrb]) (by simp [hdq, dqAnswers])
    (by simp [hdq])
  have hsampled := hout.sampled
  rw [hrb, hdq] at hsampled
  exact ⟨t, ht, hout.ended, hout.pins, hout.trace, hout.nothingReceived hdq, hout.noRecord, hsampled⟩

/-! ### ENABLE_ERASE, DISABLE_ERASE and IDLE (O23, O24, O14) -/

/-- Settles O23: the one step is a straight line of one event (R130). -/
theorem enableEraseRaisesWp : Obligations.EnableEraseRaisesWp := by
  intro s hr hsl
  obtain ⟨t, ht, hended, hpins, htrace, hkept⟩ :=
    exec_line (i := .enableErase) (es := [.w .wp true]) hr hsl rfl rfl
  exact ⟨t, ht, hended, hpins, htrace, fun hwp => by simp [levelChanges, stutters, Pins.level, hwp], hkept⟩

/-- Settles O24: the one step is a straight line of one event (R131). -/
theorem disableEraseLowersWp : Obligations.DisableEraseLowersWp := by
  intro s hr hsl
  obtain ⟨t, ht, hended, hpins, htrace, hkept⟩ :=
    exec_line (i := .disableErase) (es := [.w .wp false]) hr hsl rfl rfl
  exact ⟨t, ht, hended, hpins, htrace, fun hwp => by simp [levelChanges, stutters, Pins.level, hwp], hkept⟩

/-- From idle pins each write of IDLE stutters, and the pins stay. -/
theorem idleWrite_stutters {p : Pins} (hp : p.isIdle = true) (a : IdleWrite) :
    levelChanges p a.events = [] ∧ pinsAfter p a.events = p := by
  rw [Pins.idle_eq hp]
  cases a <;> simp [IdleWrite.events, levelChanges, stutters, pinsAfter, Event.onPins, Pins.level, Pins.write,
    Pins.clearDq, Pins.setDq]

theorem levelChanges_append (p : Pins) (es fs : List Event) :
    levelChanges p (es ++ fs) = levelChanges p es ++ levelChanges (pinsAfter p es) fs := by
  induction es generalizing p with
  | nil => rfl
  | cons e es ih => simp [levelChanges, pinsAfter, ih]

/-- From idle pins IDLE changes no level, whatever the order of its writes (V-IDLE-1). -/
theorem levelChanges_idle {p : Pins} (hp : p.isIdle = true) (io : IdleOrder) : levelChanges p (idleEvents io) = [] := by
  induction io with
  | nil => rfl
  | cons a io ih =>
    obtain ⟨hlevels, hpins⟩ := idleWrite_stutters hp a
    have e : idleEvents (a :: io) = a.events ++ idleEvents io := rfl
    rw [e, levelChanges_append, hlevels, hpins, ih]; rfl

/-- Settles O14: IDLE is a straight line, and its writes commute to the idle pins (D5). -/
theorem idleReturnsToIdleState : Obligations.IdleReturnsToIdleState := by
  intro s hr hio hsl
  obtain ⟨t, ht, hended, hpins, htrace, hkept⟩ := exec_line (i := .idle) hr hsl rfl (lineEvents_idle _ _ s.idleOrder)
  rw [pinsAfter_idle hio] at hpins
  refine ⟨t, _, ht, hended, by rw [hpins, Pins.toIdle_isIdle], hpins, htrace, fun hp => ?_, hkept⟩
  exact ⟨levelChanges_idle hp _, observe_idle (by rw [Pins.idle_eq hp]) _⟩

end Sys2Proof.Machine
end

section
/-! PROOFS. The write primitives (O15 to O18): what a run of events does to the pins, what is seen of it, and its strobe
edges, put together from a head, the bytes and the closing IDLE. -/

namespace Sys2Proof.Machine

/-! ### Segments of a run -/

/-- A write of one of the strobes WE#, RE#, DQS and DQSC, or a DQ sample. -/
def Event.isStrobe : Event → Bool
  | .w .we _ | .w .re _ | .w .dqs _ | .w .dqsc _ | .dq _ => true
  | _ => false

/-- The strobe edges and the DQ samples of a run, in order. -/
def strobeActivity (p : Pins) (es : List Event) : List Event := (levelChanges p es).filter Event.isStrobe

/-- `Segment ok p q es seen act`: the events `es` lead from pins `p` to pins `q`, this is seen of them, these are their
strobe edges and samples, and `ok` holds at each. -/
structure Segment (ok : Pins → Event → Bool) (p q : Pins) (es : List Event) (seen : List Seen) (act : List Event) :
    Prop where
  pins : pinsAfter p es = q
  seen : observe p es = seen
  activity : strobeActivity p es = act
  along : alongTrace ok p es = true

variable {ok : Pins → Event → Bool}

theorem Segment.nil (p : Pins) : Segment ok p p [] [] [] := ⟨rfl, rfl, rfl, rfl⟩

theorem Segment.append {p q r : Pins} {es fs : List Event} {a b : List Seen} {x y : List Event}
    (h : Segment ok p q es a x) (h' : Segment ok q r fs b y) : Segment ok p r (es ++ fs) (a ++ b) (x ++ y) where
  pins := by rw [pinsAfter_append, h.pins, h'.pins]
  seen := by rw [observe_append, h.pins, h.seen, h'.seen]
  activity := by
    have hx : (levelChanges p es).filter Event.isStrobe = x := h.activity
    have hy : (levelChanges q fs).filter Event.isStrobe = y := h'.activity
    rw [strobeActivity, levelChanges_append, List.filter_append, h.pins, hx, hy]
  along := by rw [alongTrace_append, h.pins, h.along, h'.along]; rfl

/-- The edges of a pin are the level changes that write it (R10, R133). -/
theorem edges_eq_count (q : Pin) (v : Level) (p : Pins) (es : List Event) :
    edges q v p es = (levelChanges p es).count (.w q v) := by
  induction es generalizing p with
  | nil => rfl
  | cons e es ih =>
    rw [edges, levelChanges, List.count_append, ih]
    congr 1
    by_cases he : e = .w q v
    · subst he
      by_cases hv : p.level q = v <;> simp [stutters, hv]
    · have hne : ∀ b : Bool, (if b then [] else [e]).count (.w q v) = 0 := by
        intro b; cases b <;> simp [he]
      simp [he, hne]

/-- The edges of a strobe are in the activity of the run. -/
theorem Segment.edges_eq {p q : Pins} {es act : List Event} {seen : List Seen} (h : Segment ok p q es seen act) {r : Pin}
    {v : Level} (hr : Event.isStrobe (.w r v) = true) : edges r v p es = act.count (.w r v) := by
  rw [edges_eq_count, ← h.activity, strobeActivity, List.count_filter hr]

theorem alongTrace_and (f g : Pins → Event → Bool) (p : Pins) (es : List Event) :
    alongTrace (fun p e => f p e && g p e) p es = (alongTrace f p es && alongTrace g p es) := by
  induction es generalizing p with
  | nil => rfl
  | cons e es ih => simp [alongTrace, ih, Bool.and_assoc, Bool.and_left_comm]

theorem strobeActivity_append (p : Pins) (es fs : List Event) :
    strobeActivity p (es ++ fs) = strobeActivity p es ++ strobeActivity (pinsAfter p es) fs := by
  rw [strobeActivity, levelChanges_append, List.filter_append]; rfl

@[simp] theorem strobeActivity_nil (p : Pins) : strobeActivity p [] = [] := rfl

@[simp] theorem strobeActivity_cons (p : Pins) (e : Event) (es : List Event) :
    strobeActivity p (e :: es) =
      (if e.isStrobe && !stutters p e then [e] else []) ++ strobeActivity (e.onPins p) es := by
  rw [strobeActivity, levelChanges, List.filter_append]
  cases hs : stutters p e <;> cases he : e.isStrobe <;> simp [he, strobeActivity]

/-! ### IDLE as a segment -/

/-- A write of IDLE leaves WE# high, and RE# too. -/
theorem idleWrite_strobes (p : Pins) (a : IdleWrite) (hwe : p.we = true) :
    (pinsAfter p a.events).we = true ∧ (pinsAfter p a.events).re = (p.re || decide (a = .re)) := by
  cases a <;> simp [IdleWrite.events, pinsAfter, Event.onPins, Pins.write, Pins.clearDq, Pins.setDq, hwe]

/-- Only the write of RE# can be a strobe edge: WE# is high already. -/
theorem strobeActivity_idleWrite (p : Pins) (a : IdleWrite) (hwe : p.we = true) :
    strobeActivity p a.events = if p.re = false ∧ a = .re then [.w .re true] else [] := by
  cases a with
  | re => cases hre : p.re <;> simp [IdleWrite.events, Event.isStrobe, stutters, Pins.level, hre]
  | we => simp [IdleWrite.events, stutters, Pins.level, hwe]
  | _ => simp [IdleWrite.events, Event.isStrobe]

/-- The one strobe edge of IDLE: RE# rises, if it was low. -/
theorem strobeActivity_idle {io : IdleOrder} {p : Pins} (hwe : p.we = true) :
    strobeActivity p (idleEvents io) = if p.re = false ∧ .re ∈ io then [.w .re true] else [] := by
  induction io generalizing p with
  | nil => simp [idleEvents]
  | cons a io ih =>
    have e : idleEvents (a :: io) = a.events ++ idleEvents io := rfl
    obtain ⟨hwe', hre⟩ := idleWrite_strobes p a hwe
    rw [e, strobeActivity_append, strobeActivity_idleWrite p a hwe, ih hwe', hre]
    by_cases ha : a = .re
    · simp [ha]
    · simp [ha, Ne.symm ha]

/-- What holds at the events of each write of IDLE holds along IDLE. -/
theorem alongTrace_idle {P : Pins → Prop}
    (h : ∀ p (a : IdleWrite), P p → alongTrace ok p a.events = true ∧ P (pinsAfter p a.events))
    {p : Pins} (hp : P p) (io : IdleOrder) : alongTrace ok p (idleEvents io) = true := by
  induction io generalizing p with
  | nil => rfl
  | cons a io ih =>
    have e : idleEvents (a :: io) = a.events ++ idleEvents io := rfl
    obtain ⟨ha, hnext⟩ := h p a hp
    rw [e, alongTrace_append, ha, ih hnext]; rfl

theorem IdleOrder.re_mem {io : IdleOrder} (h : io.complete = true) : IdleWrite.re ∈ io :=
  (List.isPerm_iff.mp h).mem_iff.2 (by decide)

/-- The closing IDLE of a primitive (R120). -/
theorem Segment.idle {io : IdleOrder} {p : Pins} (hio : io.complete = true) (hwe : p.we = true)
    (hok : alongTrace ok p (idleEvents io) = true) :
    Segment ok p p.toIdle (idleEvents io) [] (if p.re then [] else [.w .re true]) where
  pins := pinsAfter_idle hio p
  seen := observe_idle hwe io
  activity := by rw [strobeActivity_idle hwe]; cases p.re <;> simp [IdleOrder.re_mem hio]
  along := hok

/-! ### Bytes written with WE# pulses (R121, R122, R123) -/

/-- What holds along the write primitives: the byte is steady while WE# is low (D6), and a strobe edge finds CE# low. -/
def heldAndSelected (p : Pins) (e : Event) : Bool := byteHeld p e && strobeSelected p e

theorem held_and_selected {p : Pins} {es : List Event} (h : alongTrace heldAndSelected p es = true) :
    alongTrace byteHeld p es = true ∧ alongTrace strobeSelected p es = true := by
  have hand := alongTrace_and byteHeld strobeSelected p es
  exact Bool.and_eq_true_iff.1 (hand.symm.trans h)

/-- The pins between two bytes of a write: selected, WE# high, DQ driven. -/
structure Pins.Writing (p : Pins) : Prop where
  ce : p.ce = false
  we : p.we = true
  re : p.re = true
  dqDir : p.dqDir = .out

/-- The events of one byte with its WE# pulse. -/
def pulseEvents (b : Byte) : List Event := [.dqClr (~~~b), .dqSet b, .w .we false, .w .we true]

/-- The strobe edges of a WE# pulse. -/
def wePulse : List Event := [.w .we false, .w .we true]

theorem Segment.pulse {p : Pins} (hp : p.Writing) {b : Byte} {c : BusCycle}
    (hc : latchedCycle { p with dqOut := b } = some c) :
    Segment heldAndSelected p { p with dqOut := b } (pulseEvents b) [.cycle c] wePulse := by
  obtain ⟨ce, we, re, cle, ale, wp, dqs, dqsc, o, d, sd⟩ := p
  obtain ⟨rfl, rfl, rfl, rfl⟩ := hp
  constructor
  · simp [pulseEvents, pinsAfter, Event.onPins, Pins.write, Pins.clearDq, Pins.setDq]
  · simpa [pulseEvents, latchedCycle, observe, Event.seen, cycleOf, Event.onPins, Pins.write, Pins.clearDq,
      Pins.setDq] using hc
  · simp [pulseEvents, wePulse, Event.isStrobe, stutters, Event.onPins, Pins.level, Pins.write, Pins.clearDq,
      Pins.setDq]
  · simp [pulseEvents, alongTrace, heldAndSelected, byteHeld, strobeSelected, Event.onPins, Pins.write, Pins.clearDq,
      Pins.setDq]

/-- The events of a run of bytes, each with its WE# pulse. -/
def pulsesEvents (bs : List Byte) : List Event := bs.flatMap pulseEvents

/-- The strobe edges of `n` WE# pulses. -/
def wePulses (n : Nat) : List Event := (List.replicate n wePulse).flatten

theorem Segment.pulses {p : Pins} (hp : p.Writing) {cycle : Byte → BusCycle}
    (hc : ∀ b, latchedCycle { p with dqOut := b } = some (cycle b)) (bs : List Byte) :
    ∃ o, Segment heldAndSelected p { p with dqOut := o } (pulsesEvents bs) (bs.map fun b => .cycle (cycle b))
      (wePulses bs.length) := by
  induction bs generalizing p with
  | nil => exact ⟨p.dqOut, .nil p⟩
  | cons b bs ih =>
    obtain ⟨o, h⟩ := ih (p := { p with dqOut := b }) ⟨hp.ce, hp.we, hp.re, hp.dqDir⟩ hc
    exact ⟨o, (Segment.pulse hp (hc b)).append h⟩

/-- IDLE after a write keeps the write side held and selects no strobe edge. -/
theorem Segment.idleAfterWrite {io : IdleOrder} {p : Pins} (hio : io.complete = true) (hwe : p.we = true)
    (hre : p.re = true) (hdir : p.dqDir = .out) : Segment heldAndSelected p p.toIdle (idleEvents io) [] [] := by
  have hok : alongTrace heldAndSelected p (idleEvents io) = true := by
    refine alongTrace_idle (P := fun q => q.we = true ∧ q.dqDir = .out) (fun q a ⟨hw, hd⟩ => ?_) ⟨hwe, hdir⟩ io
    cases a <;> simp [IdleWrite.events, alongTrace, heldAndSelected, byteHeld, strobeSelected, pinsAfter, Event.onPins,
      Pins.write, Pins.clearDq, Pins.setDq, hw, hd]
  have h := Segment.idle hio hwe hok
  rwa [hre] at h

/-- The pins a write primitive selects the chip with: CE# low, CLE and ALE as given. -/
def Pins.selected (p : Pins) (cle ale : Level) : Pins := { p with ce := false, cle := cle, ale := ale }

theorem Pins.selected_writing {p : Pins} (hp : p.isIdle = true) (cle ale : Level) : (p.selected cle ale).Writing := by
  rw [Pins.idle_eq hp]; constructor <;> rfl

/-- A primitive that writes bytes with WE# pulses: a head that selects, the bytes, IDLE. -/
theorem Segment.write {io : IdleOrder} {p : Pins} {cle ale : Level} {head : List Event} (hio : io.complete = true)
    (hp : p.isIdle = true) (hhead : Segment heldAndSelected p (p.selected cle ale) head [] []) {cycle : Byte → BusCycle}
    (hc : ∀ b, latchedCycle { p.selected cle ale with dqOut := b } = some (cycle b)) (bs : List Byte) :
    Segment heldAndSelected p p (head ++ pulsesEvents bs ++ idleEvents io) (bs.map fun b => .cycle (cycle b))
      (wePulses bs.length) := by
  have hq := Pins.selected_writing hp cle ale
  obtain ⟨o, hbytes⟩ := Segment.pulses hq hc bs
  have hidle := Segment.idleAfterWrite (p := { p.selected cle ale with dqOut := o }) hio hq.we hq.re hq.dqDir
  have hback : ({ p.selected cle ale with dqOut := o } : Pins).toIdle = p := Pins.toIdle_of_idle hp
  rw [hback] at hidle
  have h := (hhead.append hbytes).append hidle
  rwa [List.nil_append, List.append_nil, List.nil_append, List.append_nil] at h

theorem count_wePulses (e : Event) (n : Nat) : (wePulses n).count e = n * wePulse.count e := by
  simp [wePulses, List.count_flatten]

/-- What a write primitive shows: its cycles, as many WE# pulses, no DQS edge, the bytes held, CE# low. -/
theorem Segment.write_shows {p : Pins} {es : List Event} {seen : List Seen} {n : Nat}
    (h : Segment heldAndSelected p p es seen (wePulses n)) :
    observe p es = seen ∧ edges .we false p es = n ∧ edges .we true p es = n ∧ edges .dqs true p es = 0 ∧
      edges .dqs false p es = 0 ∧ alongTrace byteHeld p es = true ∧ alongTrace strobeSelected p es = true := by
  refine ⟨h.seen, ?_, ?_, ?_, ?_, held_and_selected h.along⟩ <;> rw [h.edges_eq rfl, count_wePulses] <;> simp [wePulse]

/-- The head of SEND_COMMAND (R121). -/
theorem Segment.selectCommand {p : Pins} (hp : p.isIdle = true) :
    Segment heldAndSelected p (p.selected true false) [.w .ce false, .w .cle true] [] [] := by
  rw [Pins.idle_eq hp]
  constructor <;> rfl

/-- The head of SEND_ADDRESSES (R122). -/
theorem Segment.selectAddress {p : Pins} (hp : p.isIdle = true) :
    Segment heldAndSelected p (p.selected false true) [.w .ce false, .w .ale true] [] [] := by
  rw [Pins.idle_eq hp]
  constructor <;> rfl

/-- The head of SEND_DATA (R123). -/
theorem Segment.selectData {p : Pins} (hp : p.isIdle = true) :
    Segment heldAndSelected p (p.selected false false) [.w .ce false, .w .cle false, .w .ale false] [] [] := by
  rw [Pins.idle_eq hp]
  constructor <;> rfl

/-! ### SEND_COMMAND, SEND_ADDRESSES, SEND_DATA in ASYNC mode (O15, O16, O17) -/

theorem lineEvents_command (tx : Memory) (p : Pins) (io : IdleOrder) (b : Byte) :
    lineEvents tx p (commandSteps io b) =
      some ([.w .ce false, .w .cle true] ++ pulsesEvents [b] ++ idleEvents io) :=
  lineEvents_append_some (es := [.w .ce false, .w .cle true] ++ pulsesEvents [b]) rfl (lineEvents_idle ..)

theorem lineEvents_addressCycles (tx : Memory) (p : Pins) (k : Nat) (bs : List Byte) :
    lineEvents tx p (addressCycles k bs) = some (pulsesEvents bs) := by
  induction bs generalizing k p with
  | nil => rfl
  | cons b bs ih =>
    have hb : lineEvents tx p ([.setIdx k] ++ driveByte b ++ pulseWe) = some (pulseEvents b) := rfl
    exact lineEvents_append_some hb (ih ..)

theorem lineEvents_address (tx : Memory) (p : Pins) (io : IdleOrder) (bs : List Byte) :
    lineEvents tx p (addressSteps io bs) = some ([.w .ce false, .w .ale true] ++ pulsesEvents bs ++ idleEvents io) :=
  lineEvents_append_some (lineEvents_append_some rfl (lineEvents_addressCycles ..)) (lineEvents_idle ..)

theorem lineEvents_dataInAsync (tx : Memory) (p : Pins) (k n : Nat) :
    lineEvents tx p (burst dataInAsync k n) = some (pulsesEvents ((List.range' k n).map (Memory.read tx))) := by
  induction n generalizing k p with
  | zero => rfl
  | succ n ih =>
    have hb : lineEvents tx p (dataInAsync k) = some (pulseEvents (Memory.read tx k)) := rfl
    exact lineEvents_append_some hb (ih ..)

theorem lineEvents_sendDataAsync (tx : Memory) (p : Pins) (io : IdleOrder) (n : Nat) :
    lineEvents tx p (dataInSteps io .async n) =
      some ([.w .ce false, .w .cle false, .w .ale false] ++ pulsesEvents ((List.range n).map (Memory.read tx)) ++
        idleEvents io) := by
  rw [List.range_eq_range']
  exact lineEvents_append_some (lineEvents_append_some rfl (lineEvents_dataInAsync ..)) (lineEvents_idle ..)

/-- Settles O15: a head that raises CLE, one byte, IDLE. -/
theorem sendCommandGivesOneCommandCycle : Obligations.SendCommandGivesOneCommandCycle := by
  intro b s ⟨hr, hidle, _, hio, hsl⟩
  obtain ⟨t, ht, hended, hpins, htrace, hkept⟩ :=
    exec_line (i := .sendCommand b) hr hsl rfl (lineEvents_command ..)
  have hseg := Segment.write hio hidle (.selectCommand hidle) (cycle := .command) (fun _ => rfl) [b]
  obtain ⟨hseen, hfalls, hrises, -, -, hheld, hselected⟩ := hseg.write_shows
  exact ⟨t, _, ht, hended, hpins.trans hseg.pins, htrace, hseen, hfalls, hrises, hheld, hselected, hkept⟩

/-- Settles O16: a head that raises ALE, one byte per index below ALEN, IDLE. -/
theorem sendAddressesGivesAddressCycles : Obligations.SendAddressesGivesAddressCycles := by
  intro a n s ⟨hr, hidle, _, hio, hsl⟩ hn
  obtain ⟨t, ht, hended, hpins, htrace, hkept⟩ :=
    exec_line (i := .sendAddresses a n) hr hsl (decide_eq_true hn) (lineEvents_address ..)
  have hseg := Segment.write hio hidle (.selectAddress hidle) (cycle := .address) (fun _ => rfl) (addrBytes a n)
  have hlen : (addrBytes a n).length = n.toNat := by simpa [addrBytes] using hn
  rw [hlen] at hseg
  obtain ⟨hseen, hfalls, hrises, -, -, hheld, hselected⟩ := hseg.write_shows
  exact ⟨t, _, ht, hended, hpins.trans hseg.pins, htrace, hseen, hfalls, hrises, hheld, hselected, hkept⟩

/-- Settles O17: a head that keeps CLE and ALE low, one byte of TXBUF per index below COUNT, IDLE. -/
theorem sendDataAsyncGivesDataCycles : Obligations.SendDataAsyncGivesDataCycles := by
  intro c s ⟨hr, hidle, _, hio, hsl⟩ hm hc
  have hsteps : stepsOf (.sendData c) s = dataInSteps s.idleOrder .async c.toNat := by rw [← hm]; rfl
  obtain ⟨t, ht, hended, hpins, htrace, hkept⟩ :=
    exec_line (i := .sendData c) hr hsl (by simp [Instr.wellFormed, WellFormed.count, WellFormed.parity, hm, hc])
      (hsteps ▸ lineEvents_sendDataAsync ..)
  have hseg := Segment.write hio hidle (.selectData hidle) (cycle := .dataIn) (fun _ => rfl)
    ((List.range c.toNat).map (Memory.read s.opnd.txbuf))
  rw [List.map_map, List.length_map, List.length_range] at hseg
  obtain ⟨hseen, hfalls, hrises, hrise, hfall, hheld, hselected⟩ := hseg.write_shows
  exact ⟨t, _, ht, hended, hpins.trans hseg.pins, htrace, hseen, hfalls, hrises, hrise, hfall, hheld, hselected, hkept⟩

/-! ### SEND_DATA in TOGGLE mode (O18) -/

/-- The events of one byte of a TOGGLE burst at the strobe level `v`: the byte, then a transition of DQS and DQSC (R124). -/
def toggleByteEvents (v : Level) (b : Byte) : List Event := [.dqClr (~~~b), .dqSet b, .w .dqs (!v), .w .dqsc v]

/-- The events of a TOGGLE burst from the strobe level `v` on. -/
def toggleEvents : Level → List Byte → List Event
  | _, [] => []
  | v, b :: bs => toggleByteEvents v b ++ toggleEvents (!v) bs

/-- The strobe edges of `n` transitions from the level `v` on. -/
def strobeEdges : Level → Nat → List Event
  | _, 0 => []
  | v, n + 1 => [.w .dqs (!v), .w .dqsc v] ++ strobeEdges (!v) n

/-- Transitions alternate, so half of them go to each level. -/
theorem count_strobeEdges (u v : Level) (n : Nat) :
    (strobeEdges v n).count (.w .dqs u) = (n + (u ^^ v).toNat) / 2 ∧
      (strobeEdges v n).count (.w .dqsc u) = (n + (u ^^ !v).toNat) / 2 := by
  induction n generalizing v with
  | zero => cases u <;> cases v <;> exact ⟨rfl, rfl⟩
  | succ n ih =>
    obtain ⟨hdqs, hdqsc⟩ := ih (!v)
    rw [strobeEdges, List.count_append, List.count_append, hdqs, hdqsc]
    cases u <;> cases v <;> simp <;> omega

theorem strobeEdges_we (u v : Level) (n : Nat) : (strobeEdges v n).count (.w .we u) = 0 := by
  induction n generalizing v with
  | zero => rfl
  | succ n ih => rw [strobeEdges, List.count_append, ih]; simp

theorem Segment.toggleByte (p : Pins) (o b : Byte) (v : Level) :
    Segment heldAndSelected (p.dataIn o v .out) (p.dataIn b (!v) .out) (toggleByteEvents v b)
      [.cycle (.dataIn b)] [.w .dqs (!v), .w .dqsc v] := by
  constructor
  · simp [toggleByteEvents, pinsAfter, Event.onPins, Pins.write, Pins.clearDq, Pins.setDq, Pins.dataIn, Pins.toIdle]
  · simp [toggleByteEvents, observe, Event.seen, cycleOf, latchedCycle, Event.onPins, Pins.clearDq, Pins.setDq,
      Pins.dataIn, Pins.toIdle]
  · simp [toggleByteEvents, Event.isStrobe, stutters, Event.onPins, Pins.level, Pins.write, Pins.clearDq, Pins.setDq,
      Pins.dataIn, Pins.toIdle]
  · simp [toggleByteEvents, alongTrace, heldAndSelected, byteHeld, strobeSelected, Event.onPins, Pins.write,
      Pins.clearDq, Pins.setDq, Pins.dataIn, Pins.toIdle]

theorem Segment.toggleBytes (p : Pins) (o : Byte) (v : Level) (bs : List Byte) :
    ∃ o', Segment heldAndSelected (p.dataIn o v .out) (p.dataIn o' (v ^^ decide (bs.length % 2 = 1)) .out)
      (toggleEvents v bs) (bs.map fun b => .cycle (.dataIn b)) (strobeEdges v bs.length) := by
  induction bs generalizing o v with
  | nil => exact ⟨o, by simpa [toggleEvents, strobeEdges] using Segment.nil _⟩
  | cons b bs ih =>
    obtain ⟨o', h⟩ := ih b (!v)
    have hv : (v ^^ decide ((b :: bs).length % 2 = 1)) = (!v ^^ decide (bs.length % 2 = 1)) := by
      rcases Nat.mod_two_eq_zero_or_one bs.length with hb | hb <;> cases v <;> simp [hb, Nat.add_mod]
    rw [hv]
    exact ⟨o', (Segment.toggleByte p o b v).append h⟩

theorem lineEvents_dataInToggle (tx : Memory) (p : Pins) (k n : Nat) (o : Byte) (v : Level) :
    lineEvents tx (p.dataIn o v .out) (burst dataInToggle k n) =
      some (toggleEvents v ((List.range' k n).map (Memory.read tx))) := by
  induction n generalizing k o v with
  | zero => rfl
  | succ n ih =>
    have hpins := (Segment.toggleByte p o (Memory.read tx k) v).pins
    have hbyte : lineEvents tx (p.dataIn o v .out) (dataInToggle k) = some (toggleByteEvents v (Memory.read tx k)) := by
      simp [dataInToggle, toggleByteEvents, driveTx, lineEvents, Micro.event, Pins.level, Event.onPins, Pins.write,
        Pins.clearDq, Pins.setDq, Pins.dataIn]
    exact lineEvents_append_some hbyte (hpins ▸ ih ..)

/-- The head of a TOGGLE SEND_DATA: selected, the strobes to 0 and 1, then driven (R124). -/
def toggleHeadEvents : List Event :=
  [.w .ce false, .w .cle false, .w .ale false, .w .dqs false, .w .dqsc true, .dirStrobe .out]

/-- The strobe edges of that head: those that bring the latches to 0 and 1. -/
def toggleHeadEdges (p : Pins) : List Event :=
  (if p.dqs then [.w .dqs false] else []) ++ (if p.dqsc then [] else [.w .dqsc true])

theorem Segment.toggleHead {p : Pins} (hp : p.isIdle = true) :
    Segment heldAndSelected p (p.dataIn 0x00 false .out) toggleHeadEvents [] (toggleHeadEdges p) := by
  rw [Pins.idle_eq hp]
  constructor
  · rfl
  · simp [toggleHeadEvents, observe, Event.seen, cycleOf, Event.onPins, Pins.write]
  · cases p.dqs <;> cases p.dqsc <;> rfl
  · simp [toggleHeadEvents, alongTrace, heldAndSelected, byteHeld, strobeSelected, Event.onPins, Pins.write]

theorem lineEvents_sendDataToggle (tx : Memory) {p : Pins} (hp : p.isIdle = true) (io : IdleOrder) (n : Nat) :
    lineEvents tx p (dataInSteps io .toggle n) =
      some (toggleHeadEvents ++ toggleEvents false ((List.range n).map (Memory.read tx)) ++ idleEvents io) := by
  have hburst := lineEvents_dataInToggle tx p 0 n 0x00 false
  rw [← (Segment.toggleHead hp).pins, ← List.range_eq_range'] at hburst
  have hsteps : dataInSteps io .toggle n = ([.w .ce false, .w .cle false, .w .ale false, .w .dqs false,
      .w .dqsc true, .dirStrobe .out] ++ burst dataInToggle 0 n) ++ idleSteps io := rfl
  rw [hsteps]
  exact lineEvents_append_some (lineEvents_append_some rfl hburst) (lineEvents_idle ..)

/-- A TOGGLE SEND_DATA of an even number of bytes, whole. -/
theorem Segment.sendToggle {io : IdleOrder} {p : Pins} (hio : io.complete = true) (hp : p.isIdle = true) {bs : List Byte}
    (hn : bs.length % 2 = 0) :
    Segment heldAndSelected p { p with dqs := false, dqsc := true }
      (toggleHeadEvents ++ toggleEvents false bs ++ idleEvents io) (bs.map fun b => .cycle (.dataIn b))
      (toggleHeadEdges p ++ strobeEdges false bs.length) := by
  obtain ⟨o, hbytes⟩ := Segment.toggleBytes p 0x00 false bs
  rw [show (false ^^ decide (bs.length % 2 = 1)) = false by simp [hn]] at hbytes
  have hidle := Segment.idleAfterWrite (p := p.dataIn o false .out) hio rfl rfl rfl
  have hback : (p.dataIn o false .out).toIdle = { p with dqs := false, dqsc := true } := by
    rw [Pins.idle_eq hp]; rfl
  rw [hback] at hidle
  have h := ((Segment.toggleHead hp).append hbytes).append hidle
  rwa [List.nil_append, List.append_nil, List.append_nil] at h

/-- Settles O18: from strobe latches 0 and 1 the head makes no edge, and the transitions of an even burst are half rises,
half falls (R124). -/
theorem sendDataToggleGivesStrobeTransitions : Obligations.SendDataToggleGivesStrobeTransitions := by
  intro c s ⟨hr, hidle, _, hio, hsl⟩ hm hc heven
  have hsteps : stepsOf (.sendData c) s = dataInSteps s.idleOrder .toggle c.toNat := by rw [← hm]; rfl
  obtain ⟨t, ht, hended, hpins, htrace, hkept⟩ :=
    exec_line (i := .sendData c) hr hsl (by simp [Instr.wellFormed, WellFormed.count, WellFormed.parity, hm, hc, heven])
      (hsteps ▸ lineEvents_sendDataToggle _ hidle ..)
  have hseg := Segment.sendToggle hio hidle (bs := (List.range c.toNat).map (Memory.read s.opnd.txbuf))
    (by simpa using heven)
  obtain ⟨-, hselected⟩ := held_and_selected hseg.along
  have hwe : ∀ v, edges .we v s.pins _ = 0 := fun v => by
    rw [hseg.edges_eq rfl, List.count_append, strobeEdges_we]
    cases hd : s.pins.dqs <;> cases hd' : s.pins.dqsc <;> simp [toggleHeadEdges, hd, hd']
  refine ⟨t, _, ht, hended, hpins.trans hseg.pins, htrace, ?_, hwe false, hwe true, fun hd hd' => ?_, hselected, hkept⟩
  · rw [hseg.seen, List.map_map]; rfl
  · have hhead : toggleHeadEdges s.pins = [] := by simp [toggleHeadEdges, hd, hd']
    have hhalf : ∀ v, ((strobeEdges false c.toNat).count (.w .dqs v) = c.toNat / 2) ∧
        (strobeEdges false c.toNat).count (.w .dqsc v) = c.toNat / 2 := fun v => by
      obtain ⟨hdqs, hdqsc⟩ := count_strobeEdges v false c.toNat
      rw [hdqs, hdqsc]
      cases v <;> simp <;> omega
    refine ⟨?_, ?_, ?_, ?_⟩ <;> rw [hseg.edges_eq rfl, hhead, List.nil_append, List.length_map, List.length_range]
    · exact (hhalf true).1
    · exact (hhalf false).1
    · exact (hhalf true).2
    · exact (hhalf false).2

end Sys2Proof.Machine
end

section
/-! PROOFS. The read primitive (O19, O20) and the wait without a timeout (O21): the ready wait, the bytes with their RE#
edges, the closing IDLE. -/

namespace Sys2Proof.Machine

/-! ### The ready wait (R125, R128) -/

/-- The events of a ready wait: `k` samples of 0, then one of 1. -/
def readyEvents (k : Nat) : List Event := List.replicate k (.rb false) ++ [.rb true]

theorem Plays.readyWait (tx : Memory) (p : Pins) (k : Nat) : Plays tx p waitReadySteps (readyEvents k) := by
  induction k with
  | zero => exact .ready (.nil p)
  | succ k ih => exact .busy ih

theorem Segment.readyWait (p : Pins) (k : Nat) : Segment strobeSelected p p (readyEvents k) (seenReady k) [] := by
  induction k with
  | zero => constructor <;> rfl
  | succ k ih =>
    have hone : Segment strobeSelected p p [.rb false] [.rb false] [] := by constructor <;> rfl
    exact hone.append ih

theorem samples_readyEvents (k : Nat) : rbLevels (readyEvents k) = readyAfter k ∧ dqBytes (readyEvents k) = [] := by
  induction k with
  | zero => exact ⟨rfl, rfl⟩
  | succ k ih => exact ⟨congrArg (false :: ·) ih.1, ih.2⟩

@[simp] theorem readyAfter_length (k : Nat) : (readyAfter k).length = k + 1 := by simp [readyAfter]

/-- Settles O21: the wait plays its samples, and nothing else happens. -/
theorem waitReadySamplesUntilReady : Obligations.WaitReadySamplesUntilReady := by
  intro s k more ⟨hr, _, _, _, hsl⟩ hrb
  obtain ⟨hlevels, hbytes⟩ := samples_readyEvents k
  have hscript : s.env.rb = readyAfter k ++ more := by rw [hrb, readyAfter, List.append_assoc]; rfl
  obtain ⟨t, ht, hout⟩ := exec_plays (i := .waitReady none) hr hsl rfl (.readyWait _ _ k)
    (by rw [hlevels, hscript]; exact List.prefix_append ..) (by simp [hbytes, dqAnswers]) (by simp [hbytes])
  have hpins : pinsAfter s.pins (readyEvents k) = s.pins := (Segment.readyWait s.pins k).pins
  have hsampled := hout.sampled
  rw [hlevels, hbytes, readyAfter_length] at hsampled
  exact ⟨t, ht, hout.ended, hout.pins.trans hpins, by rw [hout.trace, readyEvents, List.append_assoc],
    hout.nothingReceived hbytes, hout.noRecord, hsampled⟩

/-! ### The bytes of a read (R126, R127) -/

/-- The cycles of a read. -/
def seenBytes (bs : List Byte) : List Seen := bs.map fun b => .cycle (.dataOut b)

/-- What the burst of a read has to be: its steps play `es`, whose samples are the bytes `bs`, and `es` are nothing but
RE# edges and samples. `re` is the level of RE# after it. -/
structure ReadBurst (tx : Memory) (mode : Mode) (p : Pins) (bs : List Byte) (es : List Event) (re : Level) : Prop where
  plays : Plays tx (p.dataOut true) (dataOutBytes mode bs.length) es
  noWait : rbLevels es = []
  bytes : dqBytes es = bs
  segment : Segment strobeSelected (p.dataOut true) (p.dataOut re) es (seenBytes bs) es

theorem asyncReadActivity_cons (b : Byte) (bs : List Byte) :
    asyncReadActivity (b :: bs) = [.w .re false, .dq b, .w .re true] ++ asyncReadActivity bs := rfl

theorem Plays.bytesAsync (tx : Memory) (p : Pins) (k : Nat) (bs : List Byte) :
    Plays tx (p.dataOut true) (burst dataOutAsync k bs.length) (asyncReadActivity bs) := by
  induction bs generalizing k with
  | nil => exact .nil _
  | cons b bs ih => exact .setIdx k (.event rfl (.sample b rfl (.event rfl (ih (k + 1)))))

theorem Segment.byteAsync (p : Pins) (b : Byte) :
    Segment strobeSelected (p.dataOut true) (p.dataOut true) [.w .re false, .dq b, .w .re true] [.cycle (.dataOut b)]
      [.w .re false, .dq b, .w .re true] := by
  constructor <;> rfl

/-- The burst of an ASYNC read: RE# low, the sample, RE# high for each byte (R126). -/
theorem readBurst_async (tx : Memory) (p : Pins) (bs : List Byte) :
    ReadBurst tx .async p bs (asyncReadActivity bs) true where
  plays := Plays.bytesAsync tx p 0 bs
  noWait := by
    induction bs with
    | nil => rfl
    | cons b bs ih => rw [asyncReadActivity_cons, rbLevels_append, ih]; rfl
  bytes := by
    induction bs with
    | nil => rfl
    | cons b bs ih => rw [asyncReadActivity_cons, dqBytes_append, ih]; rfl
  segment := by
    induction bs with
    | nil => exact .nil _
    | cons b bs ih => exact (Segment.byteAsync p b).append ih

/-- The events of a TOGGLE burst from byte index `k` on: an RE# edge, then its sample (R127). -/
def toggleReads : Nat → List Byte → List Event
  | _, [] => []
  | k, b :: bs => [.w .re (decide (k % 2 = 1)), .dq b] ++ toggleReads (k + 1) bs

theorem toggleReads_eq_zipIdx (k : Nat) (bs : List Byte) :
    toggleReads k bs = (bs.zipIdx k).flatMap fun (b, k) => [.w .re (decide (k % 2 = 1)), .dq b] := by
  induction bs generalizing k with
  | nil => rfl
  | cons b bs ih => rw [toggleReads, List.zipIdx_cons, List.flatMap_cons, ih]

theorem decide_even_succ (k : Nat) : decide ((k + 1) % 2 = 0) = decide (k % 2 = 1) := by
  rw [decide_eq_decide]; omega

theorem decide_odd_not_even (k : Nat) : decide (k % 2 = 1) = !decide (k % 2 = 0) := by
  rcases Nat.mod_two_eq_zero_or_one k with hk | hk <;> simp [hk]

theorem Segment.byteToggle (p : Pins) (v : Level) (b : Byte) :
    Segment strobeSelected (p.dataOut v) (p.dataOut (!v)) [.w .re (!v), .dq b] [.cycle (.dataOut b)]
      [.w .re (!v), .dq b] := by
  cases v <;> constructor <;> rfl

theorem Segment.bytesToggle (p : Pins) (k : Nat) (bs : List Byte) :
    Segment strobeSelected (p.dataOut (decide (k % 2 = 0))) (p.dataOut (decide ((k + bs.length) % 2 = 0)))
      (toggleReads k bs) (seenBytes bs) (toggleReads k bs) := by
  induction bs generalizing k with
  | nil => exact .nil _
  | cons b bs ih =>
    have hb := Segment.byteToggle p (decide (k % 2 = 0)) b
    have hbs := ih (k + 1)
    rw [decide_even_succ, Nat.add_right_comm] at hbs
    rw [← decide_odd_not_even] at hb
    exact hb.append hbs

theorem Plays.bytesToggle (tx : Memory) (p : Pins) (v : Level) (k : Nat) (bs : List Byte) :
    Plays tx (p.dataOut v) (burst dataOutToggle k bs.length) (toggleReads k bs) := by
  induction bs generalizing k v with
  | nil => exact .nil _
  | cons b bs ih => exact .setIdx k (.event rfl (.sample b rfl (ih _ (k + 1))))

theorem samples_toggleReads (k : Nat) (bs : List Byte) :
    rbLevels (toggleReads k bs) = [] ∧ dqBytes (toggleReads k bs) = bs := by
  induction bs generalizing k with
  | nil => exact ⟨rfl, rfl⟩
  | cons b bs ih => exact ⟨(ih (k + 1)).1, congrArg (b :: ·) (ih (k + 1)).2⟩

/-- The burst of a TOGGLE read: one sample after each RE# edge (R127). -/
theorem readBurst_toggle (tx : Memory) (p : Pins) (bs : List Byte) :
    ReadBurst tx .toggle p bs (toggleReads 0 bs) (decide (bs.length % 2 = 0)) where
  plays := Plays.bytesToggle tx p true 0 bs
  noWait := (samples_toggleReads 0 bs).1
  bytes := (samples_toggleReads 0 bs).2
  segment := by simpa using Segment.bytesToggle p 0 bs

/-! ### The whole read (R125) -/

/-- The events of READ_DATA before its burst: DQ turned to inputs, the ready wait, tRR, CE# low. -/
def readHead (tm : Timing) (k : Nat) : List Event :=
  [.dirDQ .inp] ++ readyEvents k ++ [.dly .tRR tm.tRR, .w .ce false]

/-- The events of READ_DATA after its burst: IDLE, tRHW. -/
def readTail (io : IdleOrder) (tm : Timing) : List Event := idleEvents io ++ [.dly .tRHW tm.tRHW]

/-- The events of READ_DATA with the burst `es`. -/
def readEvents (io : IdleOrder) (tm : Timing) (k : Nat) (es : List Event) : List Event :=
  readHead tm k ++ es ++ readTail io tm

theorem samples_readHead (tm : Timing) (k : Nat) :
    rbLevels (readHead tm k) = readyAfter k ∧ dqBytes (readHead tm k) = [] := by
  obtain ⟨hrb, hdq⟩ := samples_readyEvents k
  constructor
  · rw [readHead, rbLevels_append, rbLevels_append, hrb]; exact List.append_nil _
  · rw [readHead, dqBytes_append, dqBytes_append, hdq]; rfl

theorem samples_readTail (io : IdleOrder) (tm : Timing) :
    rbLevels (readTail io tm) = [] ∧ dqBytes (readTail io tm) = [] := by
  obtain ⟨hrb, hdq⟩ := samples_of_lineEvents (lineEvents_idle [] Pins.reset io)
  constructor
  · rw [readTail, rbLevels_append, hrb]; rfl
  · rw [readTail, dqBytes_append, hdq]; rfl

theorem Segment.readHead {p : Pins} (hp : p.isIdle = true) (tm : Timing) (k : Nat) :
    Segment strobeSelected p (p.dataOut true) (readHead tm k) (seenReady k ++ seenDly tm .tRR) [] := by
  have hturn : Segment strobeSelected p { p with dqDir := .inp } [.dirDQ .inp] [] [] := by
    rw [Pins.idle_eq hp]; constructor <;> rfl
  have hselect : Segment strobeSelected { p with dqDir := .inp } (p.dataOut true) [.dly .tRR tm.tRR, .w .ce false]
      (seenDly tm .tRR) [] := by
    rw [Pins.idle_eq hp]; constructor <;> rfl
  exact (hturn.append (.readyWait _ k)).append hselect

/-- After a read RE# rises, if the burst left it low (D11). -/
theorem Segment.readTail {io : IdleOrder} {p : Pins} (hio : io.complete = true) (hp : p.isIdle = true) (tm : Timing)
    (re : Level) :
    Segment strobeSelected (p.dataOut re) p (readTail io tm) (seenDly tm .tRHW) (if re then [] else [.w .re true]) := by
  have hback : (p.dataOut re).toIdle = p := by rw [Pins.idle_eq hp]; rfl
  have halong : alongTrace strobeSelected (p.dataOut re) (idleEvents io) = true := by
    refine alongTrace_idle (P := fun q => q.we = true) (fun q a hw => ?_) rfl io
    cases a <;> simp [IdleWrite.events, alongTrace, strobeSelected, pinsAfter, Event.onPins, Pins.write, Pins.clearDq,
      Pins.setDq, hw]
  have hidle := Segment.idle hio rfl halong
  rw [hback] at hidle
  have hend : Segment strobeSelected p p [.dly .tRHW tm.tRHW] (seenDly tm .tRHW) [] := by constructor <;> rfl
  have h := hidle.append hend
  rwa [List.append_nil] at h

theorem sampledWhileReLow_of_noSample {es : List Event} (h : dqBytes es = []) (p : Pins) :
    alongTrace sampledWhileReLow p es = true := by
  induction es generalizing p with
  | nil => rfl
  | cons e es ih =>
    cases e with
    | dq b => cases h
    | _ => exact ih h _

section
variable {tx : Memory} {mode : Mode} {p : Pins} {bs : List Byte} {es : List Event} {re : Level}

theorem ReadBurst.samples (h : ReadBurst tx mode p bs es re) (io : IdleOrder) (tm : Timing) (k : Nat) :
    rbLevels (readEvents io tm k es) = readyAfter k ∧ dqBytes (readEvents io tm k es) = bs := by
  obtain ⟨hrb, hdq⟩ := samples_readHead tm k
  obtain ⟨trb, tdq⟩ := samples_readTail io tm
  constructor
  · rw [readEvents, rbLevels_append, rbLevels_append, hrb, h.noWait, trb, List.append_nil, List.append_nil]
  · rw [readEvents, dqBytes_append, dqBytes_append, hdq, h.bytes, tdq, List.append_nil, List.nil_append]

theorem ReadBurst.whole (h : ReadBurst tx mode p bs es re) {io : IdleOrder} (hio : io.complete = true)
    (hp : p.isIdle = true) (tm : Timing) (k : Nat) :
    Segment strobeSelected p p (readEvents io tm k es) (seenRead tm k bs) (es ++ if re then [] else [.w .re true]) :=
  ((Segment.readHead hp tm k).append h.segment).append (Segment.readTail hio hp tm re)

theorem ReadBurst.plays_whole (h : ReadBurst tx mode p bs es re) (hp : p.isIdle = true) (io : IdleOrder) (tm : Timing)
    (k : Nat) : Plays tx p (dataOutSteps io tm mode bs.length) (readEvents io tm k es) := by
  have hhead : Plays tx p ([.dirDQ .inp] ++ waitReadySteps ++ [.dly .tRR tm.tRR, .w .ce false]) (readHead tm k) :=
    (Plays.append (.event rfl (.nil _)) (.readyWait ..)).append (.event rfl (.event rfl (.nil _)))
  have htail : Plays tx (pinsAfter (p.dataOut true) es) (idleSteps io ++ [.dly .tRHW tm.tRHW]) (readTail io tm) :=
    (Plays.of_lineEvents (lineEvents_idle ..)).append (.event rfl (.nil _))
  have hburst := h.plays.append htail
  rw [← (Segment.readHead hp tm k).pins] at hburst
  have hall := hhead.append hburst
  rw [dataOutSteps_eq, readEvents]
  simpa using hall

/-- A read samples DQ in its burst only. -/
theorem sampledWhileReLow_readEvents (hp : p.isIdle = true)
    (hes : alongTrace sampledWhileReLow (p.dataOut true) es = true) (io : IdleOrder) (tm : Timing) (k : Nat) :
    alongTrace sampledWhileReLow p (readEvents io tm k es) = true := by
  rw [readEvents, alongTrace_append, alongTrace_append, (Segment.readHead hp tm k).pins, hes,
    sampledWhileReLow_of_noSample (samples_readHead tm k).2, sampledWhileReLow_of_noSample (samples_readTail io tm).2]
  rfl

end

/-- READ_DATA of `c` bytes from idle pins, with the burst of the mode. -/
theorem exec_read {c : Word32} {s : State} {k : Nat} {more : List Level} {es : List Event} {re : Level} (hs : s.Fresh)
    (hc : c.toNat ≤ s.maxBurst) (hrb : s.env.rb = List.replicate k false ++ true :: more)
    (h : ReadBurst s.opnd.txbuf s.mode s.pins (dqAnswers s c.toNat) es re) :
    ∃ t, exec (.readData c) s = .next t ∧ Ended s t 0 ∧ t.pins = s.pins ∧
      t.trace = s.trace ++ readEvents s.idleOrder s.timing k es ∧ Received s t (dqAnswers s c.toNat) ∧ NoRecord t ∧
      Sampled s t (k + 1) c.toNat := by
  obtain ⟨hr, hidle, hwf, hio, hsl⟩ := hs
  obtain ⟨hlevels, hbytes⟩ := h.samples s.idleOrder s.timing k
  have hscript : s.env.rb = readyAfter k ++ more := by rw [hrb, readyAfter, List.append_assoc]; rfl
  have hplays := h.plays_whole hidle s.idleOrder s.timing k
  rw [dqAnswers_length] at hplays
  obtain ⟨t, ht, hout⟩ := exec_plays (i := .readData c) hr hsl (decide_eq_true hc) hplays
    (by rw [hlevels, hscript]; exact List.prefix_append ..) (by rw [hbytes, dqAnswers_length])
    (by rw [hbytes, dqAnswers_length]; exact c.isLt)
  have hreceived := hout.received hwf (by rw [hbytes, dqAnswers_length]; exact c.isLt)
  have hsampled := hout.sampled
  rw [hbytes] at hreceived
  rw [hlevels, hbytes, readyAfter_length, dqAnswers_length] at hsampled
  have hpins := (h.whole hio hidle s.timing k).pins
  exact ⟨t, ht, hout.ended, hout.pins.trans hpins, hout.trace, hreceived, hout.noRecord, hsampled⟩

/-! ### The RE# edges of a read (O19, O20) -/

/-- An RE# edge or a DQ sample. -/
def Event.isRead : Event → Bool
  | .w .re _ | .dq _ => true
  | _ => false

/-- Where the strobe activity is RE# edges and samples only, it is the read activity. -/
theorem Segment.readActivity_eq {ok : Pins → Event → Bool} {p q : Pins} {es act : List Event} {seen : List Seen}
    (h : Segment ok p q es seen act) (hact : ∀ e ∈ act, e.isRead = true) : readActivity p es = act := by
  have hfilter : readActivity p es = (levelChanges p es).filter Event.isRead := rfl
  have hsub : ∀ e : Event, (e.isRead && e.isStrobe) = e.isRead := by
    intro e
    cases e with
    | w q v => cases q <;> rfl
    | _ => rfl
  rw [hfilter, ← List.filter_eq_self.2 hact, ← h.activity, strobeActivity, List.filter_filter]
  simp only [hsub]

/-- RE# edges and samples are no WE# edges. -/
theorem count_we_of_isRead {act : List Event} (h : ∀ e ∈ act, e.isRead = true) (v : Level) : act.count (.w .we v) = 0 :=
  List.count_eq_zero.2 fun hmem => by cases h _ hmem

theorem asyncReadActivity_isRead (bs : List Byte) : ∀ e ∈ asyncReadActivity bs, e.isRead = true := by
  induction bs with
  | nil => nofun
  | cons b bs ih => exact List.forall_mem_append.2 ⟨by simp [Event.isRead], ih⟩

theorem count_asyncReadActivity (v : Level) (bs : List Byte) : (asyncReadActivity bs).count (.w .re v) = bs.length := by
  induction bs with
  | nil => rfl
  | cons b bs ih => rw [asyncReadActivity_cons, List.count_append, ih]; cases v <;> simp <;> omega

/-- The samples of an ASYNC read are taken while RE# is low (R126, D12). -/
theorem sampledWhileReLow_async (p : Pins) (bs : List Byte) :
    alongTrace sampledWhileReLow (p.dataOut true) (asyncReadActivity bs) = true := by
  induction bs with
  | nil => rfl
  | cons b bs ih =>
    rw [asyncReadActivity_cons, alongTrace_append, (Segment.byteAsync p b).pins, ih]; rfl

/-- Settles O19: the burst is one RE# pulse around each sample, and head and tail add no strobe edge (R126). -/
theorem readDataAsyncSamplesEachPulse : Obligations.ReadDataAsyncSamplesEachPulse := by
  intro c s k more hs hm hc hrb
  have hburst := readBurst_async s.opnd.txbuf s.pins (dqAnswers s c.toNat)
  obtain ⟨t, ht, hended, hpins, htrace, hkept⟩ := exec_read hs hc hrb (hm ▸ hburst)
  obtain ⟨-, hidle, -, hio, -⟩ := hs
  have hseg := hburst.whole hio hidle s.timing k
  rw [if_pos rfl, List.append_nil] at hseg
  have hread := asyncReadActivity_isRead (dqAnswers s c.toNat)
  have hedges : ∀ v, edges .re v s.pins _ = c.toNat := fun v => by
    rw [hseg.edges_eq rfl, count_asyncReadActivity, dqAnswers_length]
  have hnone : ∀ v, edges .we v s.pins _ = 0 := fun v => by rw [hseg.edges_eq rfl, count_we_of_isRead hread]
  have hlow := sampledWhileReLow_readEvents hidle (sampledWhileReLow_async s.pins (dqAnswers s c.toNat)) s.idleOrder
    s.timing k
  exact ⟨t, _, ht, hended, hpins, htrace, hseg.seen, hedges false, hedges true, hnone false, hnone true,
    hseg.readActivity_eq hread, hlow, hseg.along, hkept⟩

theorem toggleReadActivity_eq (bs : List Byte) :
    toggleReadActivity bs = toggleReads 0 bs ++ if decide (bs.length % 2 = 0) then [] else [.w .re true] := by
  rw [toggleReadActivity, toggleReads_eq_zipIdx]
  congr 1
  rcases Nat.mod_two_eq_zero_or_one bs.length with hb | hb <;> simp [hb]

theorem toggleReads_isRead (k : Nat) (bs : List Byte) : ∀ e ∈ toggleReads k bs, e.isRead = true := by
  induction bs generalizing k with
  | nil => nofun
  | cons b bs ih => exact List.forall_mem_append.2 ⟨by simp [Event.isRead], ih _⟩

/-- RE# edges alternate, so half of them go to each level. -/
theorem count_toggleReads (v : Level) (k : Nat) (bs : List Byte) :
    (toggleReads k bs).count (.w .re v) = (bs.length + (v ^^ decide (k % 2 = 0)).toNat) / 2 := by
  induction bs generalizing k with
  | nil => cases v <;> cases decide (k % 2 = 0) <;> rfl
  | cons b bs ih =>
    rw [toggleReads, List.count_append, ih, decide_even_succ, decide_odd_not_even]
    cases v <;> cases decide (k % 2 = 0) <;> simp <;> omega

theorem toggleReadActivity_isRead (bs : List Byte) : ∀ e ∈ toggleReadActivity bs, e.isRead = true := by
  rw [toggleReadActivity_eq]
  refine List.forall_mem_append.2 ⟨toggleReads_isRead 0 bs, ?_⟩
  split <;> simp [Event.isRead]

/-- The closing IDLE makes up the last rise of an odd read (D11). -/
theorem count_toggleReadActivity (v : Level) (bs : List Byte) :
    (toggleReadActivity bs).count (.w .re v) = (bs.length + 1) / 2 := by
  rw [toggleReadActivity_eq, List.count_append, count_toggleReads]
  rcases Nat.mod_two_eq_zero_or_one bs.length with hb | hb <;> cases v <;> simp [hb] <;> omega

/-- Settles O20: the burst alternates RE# edges and samples, and IDLE makes up the last rise of an odd one (R127). -/
theorem readDataToggleSamplesEachEdge : Obligations.ReadDataToggleSamplesEachEdge := by
  intro c s k more hs hm hc hrb
  have hburst := readBurst_toggle s.opnd.txbuf s.pins (dqAnswers s c.toNat)
  obtain ⟨t, ht, hended, hpins, htrace, hkept⟩ := exec_read hs hc hrb (hm ▸ hburst)
  obtain ⟨-, hidle, -, hio, -⟩ := hs
  have hseg := hburst.whole hio hidle s.timing k
  rw [← toggleReadActivity_eq] at hseg
  have hread := toggleReadActivity_isRead (dqAnswers s c.toNat)
  have hedges : ∀ v, edges .re v s.pins _ = (c.toNat + 1) / 2 := fun v => by
    rw [hseg.edges_eq rfl, count_toggleReadActivity, dqAnswers_length]
  have hnone : ∀ v, edges .we v s.pins _ = 0 := fun v => by rw [hseg.edges_eq rfl, count_we_of_isRead hread]
  exact ⟨t, _, ht, hended, hpins, htrace, hseg.seen, hedges false, hedges true, hnone false, hnone true,
    hseg.readActivity_eq hread, hseg.along, hkept⟩

end Sys2Proof.Machine
end

section
/-! PROOFS. The bounded wait (O22): what is seen of it is its whole trace, for it writes no pin. -/

namespace Sys2Proof.Machine

/-! ### Runs that only watch -/

/-- A sample of R/B# or a clock read. -/
def Event.watches : Event → Bool
  | .rb _ | .clk _ => true
  | _ => false

/-- An entry of a bounded wait that raised no WP, or the end of the operation. -/
def Micro.watches : Micro → Bool
  | .clkStart | .done _ => true
  | .pollRb k | .pollClk k => !k.raisedWp
  | _ => false

/-- The trace since `s` holds samples of R/B# and clock reads only, and so will the steps left. -/
structure Watched (s t : State) : Prop where
  trace : ∃ es, t.trace = s.trace ++ es ∧ ∀ e ∈ es, e.watches = true
  left : ∀ m ∈ t.todo, m.watches = true

theorem Micro.event_of_watches {m : Micro} (hm : m.watches = true) (tx : Memory) (p : Pins) : m.event tx p = none := by
  cases m with
  | clkStart | done | pollRb | pollClk => rfl
  | _ => cases hm

theorem Continues.watches {m : Micro} {rest td : List Micro} (h : Continues m rest td)
    (hl : ∀ x ∈ m :: rest, x.watches = true) : ∀ x ∈ td, x.watches = true := by
  obtain ⟨hm, hrest⟩ := List.forall_mem_cons.1 hl
  cases h with
  | on => exact hrest
  | again | toClock | round => exact List.forall_mem_cons.2 ⟨hm, hrest⟩
  | early k rest code he =>
    have hk : k.raisedWp = false := by simpa [Micro.watches] using hm
    rw [hk]
    exact List.forall_mem_cons.2 ⟨rfl, nofun⟩

/-- One more watching event. -/
theorem Watched.snoc {s t u : State} {e : Event} (h : Watched s t) (he : e.watches = true)
    (hu : u.trace = t.trace ++ [e]) (hleft : ∀ m ∈ u.todo, m.watches = true) : Watched s u := by
  obtain ⟨es, htr, hes⟩ := h.trace
  refine ⟨⟨es ++ [e], by rw [hu, htr, List.append_assoc], ?_⟩, hleft⟩
  exact List.forall_mem_append.2 ⟨hes, List.forall_mem_singleton.2 he⟩

theorem Watched.engineStep {s t u : State} (hw : Watched s t) (h : engineStep t = .next u) :
    Watched s u := by
  have hleft := hw.left
  cases engineStep_effect h with
  | ends code hs hu => subst hu; exact ⟨hw.trace, nofun⟩
  | drives m rest e hs he hu =>
    rw [Micro.event_of_watches (hleft m (by simp [hs]))] at he
    cases he
  | samplesDq rest hs hu => cases hleft .sampleDQ (by simp [hs])
  | samplesRb k rest td q hs hc hu =>
    subst hu
    rw [hs] at hleft
    exact hw.snoc (e := .rb _) rfl rfl (hc.watches hleft)
  | readsClock m rest td q r a b hs hm hc hu =>
    subst hu
    rw [hs] at hleft
    exact hw.snoc (e := .clk _) rfl rfl (hc.watches hleft)
  | assigns m rest x r f hs hm hu =>
    have hno := hleft m (by simp [hs])
    cases m with
    | setIdx | busySeen | setFetched | decodeStatus => cases hno
    | _ => cases hm

/-! ### What is seen of a watching run is its trace -/

/-- The event behind a seen sample or clock read. -/
def Seen.event? : Seen → Option Event
  | .rb v => some (.rb v)
  | .clk t => some (.clk t)
  | _ => none

theorem observe_watches {es : List Event} (h : ∀ e ∈ es, e.watches = true) (p : Pins) :
    (observe p es).filterMap Seen.event? = es := by
  induction es generalizing p with
  | nil => rfl
  | cons e es ih =>
    obtain ⟨he, hes⟩ := List.forall_mem_cons.1 h
    rw [observe, List.filterMap_append, ih hes]
    cases e with
    | rb | clk => rfl
    | _ => cases he

theorem event?_seenRounds (v : Level) (ts : List Word64) :
    (seenRounds v ts).filterMap Seen.event? = ts.flatMap fun x => [.rb v, .clk x] := by
  induction ts with
  | nil => rfl
  | cons t ts ih => exact congrArg ([Event.rb v, .clk t] ++ ·) ih

/-- A bounded wait that runs to its end: what is seen of it gives its trace. -/
theorem exec_boundedWait {limit : Word64} {s u : State} {seen : List Seen} {code : Byte} (hr : s.run = .ready)
    (hsl : s.slice = none)
    (h : Run (s.accept (boundedWaitSteps (.waitBound limit) ++ [.done resOk])) u seen) (hu : u.todo = [.done code])
    (hrun : u.run = .running) :
    exec (.waitReady (some limit)) s = .next (u.complete code) ∧
      (u.complete code).trace = s.trace ++ seen.filterMap Seen.event? := by
  obtain ⟨hexec, fs, hfs, hseen⟩ := request_ends (checks := []) hr hsl rfl h hu hrun
  refine ⟨hexec, ?_⟩
  rw [request_accept hr rfl] at hexec
  have hstart : Watched s (s.accept (boundedWaitSteps (.waitBound limit) ++ [.done resOk])) :=
    ⟨⟨[], by simp⟩, by simp [boundedWaitSteps, Micro.watches, Poll.raisedWp]⟩
  have hend : Watched s (u.complete code) := drive_induction (fun hw _ => hw.engineStep) hstart hexec
  obtain ⟨es, hes, hall⟩ := hend.trace
  have heq : fs = es := List.append_cancel_left (hfs.symm.trans hes)
  rw [hfs, ← hseen, heq, observe_watches hall]

/-- A bounded wait that finds the device ready (R128). -/
theorem boundedWait_ready {s : State} {limit t0 : Word64} {ts : List Word64} {more : List Level} {later : List Word64}
    (hr : s.run = .ready) (hsl : s.slice = none) (hrise : risingFrom s.clkLast (t0 :: ts) = true)
    (hin : allWithin t0 limit ts = true) (hrb : s.env.rb = List.replicate ts.length false ++ true :: more)
    (hclk : s.env.clk = t0 :: ts ++ later) :
    ∃ t, exec (.waitReady (some limit)) s = .next t ∧ Ended s t 0 ∧ t.pins = s.pins ∧
      t.trace = s.trace ++ .clk t0 :: ts.flatMap (fun x => [.rb false, .clk x]) ++ [.rb true] ∧
      NothingReceived s t ∧ NoRecord t ∧ Clocked s t (ts.length + 1) 0 (ts.length + 1) (ts.getLastD t0) := by
  obtain ⟨q, tr, hrun⟩ := Run.boundedReady (.waitBound limit) rfl rfl (fun _ => rfl) ts (rest := [.done resOk])
    (s := s.accept (boundedWaitSteps (.waitBound limit) ++ [.done resOk])) rfl rfl hrb hclk hrise hin
  obtain ⟨ht, htrace⟩ := exec_boundedWait hr hsl hrun rfl rfl
  refine ⟨_, ht, ⟨rfl, rfl, rfl, rfl, rfl, rfl, rfl, rfl, rfl⟩, rfl, ?_, ⟨rfl, rfl⟩, ⟨rfl, rfl⟩, ?_, ?_⟩
  · rw [htrace, List.filterMap_append, List.filterMap_append, event?_seenRounds, List.append_assoc s.trace]; rfl
  · exact lastRead_eq_getLastD t0 ts
  · simp [hrb, hclk, List.drop_append]

/-- A bounded wait that reaches its bound (R128). -/
theorem boundedWait_timeout {s : State} {limit t0 last : Word64} {ts : List Word64} {more : List Level}
    {later : List Word64} (hr : s.run = .ready) (hsl : s.slice = none)
    (hrise : risingFrom s.clkLast (t0 :: ts) = true) (hin : allWithin t0 limit ts = true)
    (hlast : (ts.getLastD t0).toNat ≤ last.toNat) (hbound : limit.toNat ≤ last.toNat - t0.toNat)
    (hrb : s.env.rb = List.replicate (ts.length + 1) false ++ more) (hclk : s.env.clk = t0 :: ts ++ last :: later) :
    ∃ t, exec (.waitReady (some limit)) s = .next t ∧ Ended s t 7 ∧ t.pins = s.pins ∧
      t.trace = s.trace ++ .clk t0 :: ts.flatMap (fun x => [.rb false, .clk x]) ++ [.rb false, .clk last] ∧
      NothingReceived s t ∧ NoRecord t ∧ Clocked s t (ts.length + 1) 0 (ts.length + 2) last := by
  have hrise' : risingFrom s.clkLast (t0 :: (ts ++ [last])) = true := by
    rw [← List.cons_append, risingFrom_append, hrise, lastRead_cons, lastRead_eq_getLastD]
    simpa [risingFrom] using hlast
  obtain ⟨q, tr, hrun⟩ := Run.boundedExpire (.waitBound limit) rfl rfl (fun _ => rfl) ts (rest := [.done resOk])
    (s := s.accept (boundedWaitSteps (.waitBound limit) ++ [.done resOk])) rfl rfl hrb hclk hrise' hin hbound
  obtain ⟨ht, htrace⟩ := exec_boundedWait (code := resTimeout) hr hsl hrun rfl rfl
  refine ⟨_, ht, ⟨rfl, rfl, rfl, rfl, rfl, rfl, rfl, rfl, rfl⟩, rfl, ?_, ⟨rfl, rfl⟩, ⟨rfl, rfl⟩, rfl, ?_⟩
  · rw [htrace, List.filterMap_append, event?_seenRounds, List.flatMap_append, List.append_assoc s.trace]; rfl
  · simp [Poll.onExpiry, hrb, hclk]

/-- Settles O22: the two ends of the bounded loop (R128, D14). -/
theorem boundedWaitReadyOrTimeout : Obligations.BoundedWaitReadyOrTimeout := by
  intro s limit t0 ts more later ⟨hr, _, _, _, hsl⟩ hrise hin
  exact ⟨boundedWait_ready hr hsl hrise hin, fun last => boundedWait_timeout hr hsl hrise hin⟩

end Sys2Proof.Machine
end

section
/-! PROOFS. Acceptance (O7, O8): the steps of every operation sample DQ as inputs and end with no code 5, so a request
inside its ranges runs until it is over or waits. -/

namespace Sys2Proof.Machine

/-! ### Steps that answer -/

/-- From this direction of DQ the steps left sample DQ only while they are inputs (R9), and end with no code 5. The order
of the writes of IDLE does not matter: every sample follows a turn to inputs of its own read (R125). -/
def answerable : Dir → List Micro → Bool
  | _, [] => true
  | _, .dirDQ d :: rest => answerable d rest
  | d, .sampleDQ :: rest => (d == .inp) && answerable d rest
  | d, .done code :: rest => (code != resOutOfRange) && answerable d rest
  | d, _ :: rest => answerable d rest

/-- Steps that answer from either direction of DQ. -/
def Answerable (l : List Micro) : Prop := ∀ d, answerable d l = true

theorem answerable_append {l r : List Micro} {d : Dir} (hl : answerable d l = true) (hr : Answerable r) :
    answerable d (l ++ r) = true := by
  induction l generalizing d with
  | nil => exact hr d
  | cons m l ih =>
    cases m with
    | sampleDQ | done =>
      simp only [answerable, Bool.and_eq_true] at hl
      obtain ⟨hm, hl⟩ := hl
      simp only [List.cons_append, answerable, hm, ih hl, Bool.and_self]
    | _ => exact ih hl

theorem answerable_event {tx : Memory} {p : Pins} {m : Micro} {e : Event} {rest : List Micro}
    (he : m.event tx p = some e) (h : answerable p.dqDir (m :: rest) = true) :
    answerable (e.onPins p).dqDir rest = true := by
  cases m with
  | w q v | wInv q => cases he; cases q <;> exact h
  | dqClr | dqSet | txClr | txSet | dirDQ | dirStrobe | dly | spin => cases he; exact h
  | _ => cases he

theorem answerable_noEvent {tx : Memory} {p : Pins} {m : Micro} {rest : List Micro} {d : Dir}
    (he : m.event tx p = none) (h : answerable d (m :: rest) = true) : answerable d rest = true := by
  cases m with
  | sampleDQ | done =>
    simp only [answerable, Bool.and_eq_true] at h
    exact h.2
  | clkStart | pollRb | pollClk | clkBusyStart | clkBusyEnd | setIdx | busySeen | setFetched | decodeStatus => exact h
  | _ => cases he

theorem Poll.early_not_five {k : Poll} {code : Byte} (h : k.earlyCode = some code) : code ≠ resOutOfRange := by
  cases k <;> simp only [Poll.earlyCode, Option.some.injEq, reduceCtorEq] at h <;> subst h <;> decide

theorem Continues.answerable {tx : Memory} {p : Pins} {m : Micro} {rest td : List Micro} {d : Dir}
    (h : Continues m rest td) (he : m.event tx p = none) (hm : Machine.answerable d (m :: rest) = true) :
    Machine.answerable d td = true := by
  cases h with
  | on => exact answerable_noEvent he hm
  | again | toClock | round => exact hm
  | early k rest code hk =>
    have hcode := Poll.early_not_five hk
    cases k.raisedWp <;> simp [lowerWp, Machine.answerable, hcode]

theorem resOk_ne_outOfRange : resOk ≠ resOutOfRange := by decide

/-- A block whose steps left answer, with `RES` not 5: what every engine step of an accepted operation keeps. -/
structure Answering (t : State) : Prop where
  res : t.res ≠ resOutOfRange
  left : t.run = .running → answerable t.pins.dqDir t.todo = true

theorem Answering.engineStep {t u : State} (ht : Answering t) (hr : t.run = .running) (h : engineStep t = .next u) :
    Answering u := by
  have hleft := ht.left hr
  cases engineStep_effect h with
  | ends code hs hu =>
    subst hu
    rcases hs with ⟨-, rfl⟩ | ⟨rest, hs⟩
    · exact ⟨resOk_ne_outOfRange, nofun⟩
    · rw [hs] at hleft
      simp only [answerable, Bool.and_eq_true, bne_iff_ne] at hleft
      exact ⟨hleft.1, nofun⟩
  | drives m rest e hs he hu =>
    subst hu
    rw [hs] at hleft
    exact ⟨ht.res, fun _ => answerable_event he hleft⟩
  | samplesDq rest hs hu =>
    subst hu
    rw [hs] at hleft
    exact ⟨ht.res, fun _ => answerable_noEvent (m := .sampleDQ) (tx := []) (p := t.pins) rfl hleft⟩
  | samplesRb k rest td q hs hc hu =>
    subst hu
    rw [hs] at hleft
    exact ⟨ht.res, fun _ => hc.answerable (tx := []) (p := t.pins) rfl hleft⟩
  | readsClock m rest td q r a b hs hm hc hu =>
    subst hu
    rw [hs] at hleft
    exact ⟨ht.res, fun _ => hc.answerable (m.event_of_readsClock hm [] t.pins) hleft⟩
  | assigns m rest x r f hs hm hu =>
    subst hu
    rw [hs] at hleft
    exact ⟨ht.res, fun _ => answerable_noEvent (m.event_of_assigns hm [] t.pins) hleft⟩

/-- The one fault of the engine cannot happen to it (R9). -/
theorem Answering.answers {t : State} (ht : Answering t) (hr : t.run = .running) :
    ∃ u, Machine.engineStep t = .next u ∧ Answering u := by
  rcases engineStep_answers_or_samples_outputs t with ⟨u, hu⟩ | ⟨rest, htodo, hout⟩
  · exact ⟨u, hu, ht.engineStep hr hu⟩
  · have hleft := ht.left hr
    rw [htodo, hout] at hleft
    cases hleft

/-! ### The steps of every operation answer -/

theorem Answerable.nil : Answerable [] := fun _ => rfl

theorem Answerable.append {l r : List Micro} (hl : Answerable l) (hr : Answerable r) : Answerable (l ++ r) :=
  fun d => answerable_append (hl d) hr

theorem Answerable.burst {body : Nat → List Micro} (h : ∀ k, Answerable (body k)) (k n : Nat) :
    Answerable (burst body k n) := by
  induction n generalizing k with
  | zero => exact .nil
  | succ n ih => exact (h k).append (ih _)

theorem answerable_idle (io : IdleOrder) : Answerable (idleSteps io) := by
  induction io with
  | nil => exact .nil
  | cons a io ih =>
    have ha : Answerable a.steps := fun d => by cases a <;> rfl
    exact ha.append ih

theorem answerable_command (io : IdleOrder) (b : Byte) : Answerable (commandSteps io b) :=
  Answerable.append (fun _ => rfl) (answerable_idle io)

theorem answerable_addressCycles (k : Nat) (bs : List Byte) : Answerable (addressCycles k bs) := by
  induction bs generalizing k with
  | nil => exact .nil
  | cons b bs ih => exact Answerable.append (fun _ => rfl) (ih _)

theorem answerable_address (io : IdleOrder) (bs : List Byte) : Answerable (addressSteps io bs) :=
  (Answerable.append (fun _ => rfl) (answerable_addressCycles 0 bs)).append (answerable_idle io)

theorem answerable_dataIn (io : IdleOrder) (mode : Mode) (n : Nat) : Answerable (dataInSteps io mode n) := by
  cases mode with
  | async =>
    have hburst : Answerable (burst dataInAsync 0 n) := .burst (fun _ _ => rfl) 0 n
    exact (Answerable.append (fun _ => rfl) hburst).append (answerable_idle io)
  | toggle =>
    have hburst : Answerable (burst dataInToggle 0 n) := .burst (fun _ _ => rfl) 0 n
    exact (Answerable.append (fun _ => rfl) (Answerable.append (fun _ => rfl) hburst)).append (answerable_idle io)

/-- The burst of a read answers from inputs. -/
theorem answerable_dataOutBytes (mode : Mode) (n : Nat) : answerable .inp (dataOutBytes mode n) = true := by
  have hburst : ∀ {body : Nat → List Micro}, (∀ k rest, answerable .inp (body k ++ rest) = answerable .inp rest) →
      ∀ k, answerable .inp (burst body k n) = true := by
    intro body hbody
    induction n with
    | zero => exact fun _ => rfl
    | succ n ih => exact fun k => (hbody k _).trans (ih _)
  cases mode with
  | async => exact hburst (fun _ _ => rfl) 0
  | toggle => exact hburst (fun _ _ => rfl) 0

/-- A read turns DQ to inputs before it samples them (R125). -/
theorem answerable_dataOut (io : IdleOrder) (tm : Timing) (mode : Mode) (n : Nat) :
    Answerable (dataOutSteps io tm mode n) := fun _ => by
  have hend : Answerable (idleSteps io ++ [.dly .tRHW tm.tRHW]) := (answerable_idle io).append fun _ => rfl
  have hbytes := answerable_append (answerable_dataOutBytes mode n) hend
  rw [dataOutSteps_eq]
  exact hbytes

theorem answerable_delay (tm : Timing) (p : TimingParam) : Answerable (delay tm p) := fun _ => rfl

theorem answerable_busyWait (tm : Timing) : Answerable (busyWaitSteps tm) := fun _ => rfl

theorem answerable_measureBusy (ta tc : Word64) (raisedWp : Bool) :
    Answerable (measureBusySteps ta tc raisedWp) := fun _ => rfl

theorem answerable_prologue (raiseWp : Bool) : Answerable (prologueSteps raiseWp) := fun _ => by
  cases raiseWp <;> rfl

theorem answerable_changeColumn (io : IdleOrder) (tm : Timing) (col : List Byte) :
    Answerable (changeColumnSteps io tm col) :=
  (((answerable_command io _).append (answerable_address io col)).append (answerable_command io _)).append
    (answerable_delay tm _)

theorem answerable_columnBytes (io : IdleOrder) (tm : Timing) (mode : Mode) (cc : BitVec 2) (k n : Nat) :
    Answerable (burst (columnByteSteps io tm mode cc) k n) :=
  .burst (fun _ => (answerable_changeColumn io tm _).append (answerable_dataOut io tm mode 1)) k n

theorem answerable_readGo (io : IdleOrder) (pre00 : Bool) (addr : List Byte) :
    Answerable (readGoSteps io pre00 addr) := by
  have hprefix : Answerable (if pre00 then commandSteps io cmdRead else []) := by
    cases pre00 with
    | false => exact .nil
    | true => exact answerable_command io cmdRead
  exact ((hprefix.append (answerable_command io _)).append (answerable_address io addr)).append (answerable_command io _)

theorem answerable_programGo (io : IdleOrder) (tm : Timing) (mode : Mode) (addr : List Byte) (n : Nat) (k : Byte) :
    Answerable (programGoSteps io tm mode addr n k) :=
  ((((answerable_command io _).append (answerable_address io addr)).append (answerable_delay tm _)).append
    (answerable_dataIn io mode n)).append (answerable_command io k)

theorem answerable_eraseGo (io : IdleOrder) (addr : List Byte) : Answerable (eraseGoSteps io addr) :=
  ((answerable_command io _).append (answerable_address io addr)).append (answerable_command io _)

theorem answerable_abort (io : IdleOrder) (tm : Timing) (l : Word32) : Answerable (abortSteps io tm l) := by
  have hspin : Answerable [.spin l] := fun _ => rfl
  exact (hspin.append (answerable_command io _)).append (answerable_busyWait tm)

theorem answerable_status (io : IdleOrder) (tm : Timing) (mode : Mode) : Answerable (statusSteps io tm mode) :=
  ((answerable_command io _).append (answerable_delay tm _)).append (answerable_dataOut io tm mode 1)

theorem answerable_epilogue (io : IdleOrder) (tm : Timing) (mode : Mode) (raisedWp : Bool) :
    Answerable (epilogueSteps io tm mode raisedWp) := by
  have hdecode : Answerable [.decodeStatus] := fun _ => rfl
  have hlower : Answerable (lowerWp raisedWp) := fun _ => by cases raisedWp <;> rfl
  exact ((answerable_status io tm mode).append hdecode).append hlower

theorem answerable_stepsOf (i : Instr) (s : State) : Answerable (stepsOf i s) := by
  have command := answerable_command s.idleOrder
  have address := answerable_address s.idleOrder
  have dataIn := answerable_dataIn s.idleOrder s.mode
  have dataOut := answerable_dataOut s.idleOrder s.timing s.mode
  have delay := answerable_delay s.timing
  have wait := answerable_busyWait s.timing
  have columnBytes := answerable_columnBytes s.idleOrder s.timing s.mode
  have programGo := answerable_programGo s.idleOrder s.timing s.mode
  have eraseGo := answerable_eraseGo s.idleOrder
  have abort := answerable_abort s.idleOrder s.timing
  have epilogue := answerable_epilogue s.idleOrder s.timing s.mode
  cases i with
  | idle => exact answerable_idle s.idleOrder
  | sendCommand b => exact command b
  | sendAddresses a n => exact address _
  | sendData c => exact dataIn _
  | readData c => exact dataOut _
  | waitReady limit => cases limit <;> exact fun _ => rfl
  | enableErase | disableErase => exact fun _ => rfl
  | measureBusy ta tc => exact answerable_measureBusy ta tc false
  | reset => exact (command _).append wait
  | readId b c => exact (((command _).append (address _)).append (delay _)).append (dataOut _)
  | readUniqueId => exact (((command _).append (address _)).append wait).append (dataOut _)
  | readParameterPage jedec bytewise =>
    refine (((command _).append (address _)).append wait).append ?_
    cases bytewise with
    | none => exact dataOut _
    | some cc => exact (dataOut 1).append (columnBytes cc 1 _)
  | pageRead a n c pre00 bytewise =>
    refine ((answerable_readGo _ pre00 _).append wait).append ?_
    cases bytewise with
    | none => exact dataOut _
    | some cc => exact columnBytes cc 0 _
  | changeReadColumn a n => exact answerable_changeColumn _ _ _
  | pageProgram a n c k => exact (programGo _ _ k).append wait
  | blockErase a n => exact (eraseGo _).append wait
  | setFeatures f => exact ((((command _).append (address _)).append (delay _)).append (dataIn _)).append wait
  | getFeatures f => exact (((command _).append (address _)).append wait).append (dataOut _)
  | readStatus => exact answerable_status _ _ _
  | partialErase a n l => exact (eraseGo _).append (abort l)
  | tlcSubpageProgram x a n c => exact ((command x).append (programGo _ _ _)).append wait
  | partialProgram a n c k l => exact (programGo _ _ k).append (abort l)
  | tRead a n c pre00 fetch ta tc =>
    have hfetch :
        Answerable (if fetch then dataOutSteps s.idleOrder s.timing s.mode c.toNat ++ [.setFetched] else []) := by
      cases fetch with
      | false => exact .nil
      | true => exact (dataOut _).append fun _ => rfl
    exact ((((answerable_prologue false).append (answerable_readGo _ pre00 _)).append
      (answerable_measureBusy ta tc false)).append hfetch).append (epilogue false)
  | tProgram a n c k ta tc =>
    exact (((answerable_prologue true).append (programGo _ _ k)).append (answerable_measureBusy ta tc true)).append
      (epilogue true)
  | tErase a n ta tc =>
    exact (((answerable_prologue true).append (eraseGo _)).append (answerable_measureBusy ta tc true)).append
      (epilogue true)

/-! ### Acceptance (O7, O8) -/

/-- A settled block is READY, or waits at an R/B# sample with no scripted answer left (log 1). -/
theorem settled_cases {t : State} (h : t.settled = true) :
    t.run = .ready ∨ (t.run = .running ∧ atRbSample t.todo = true ∧ t.env.rb = []) := by
  cases hr : t.run with
  | ready => exact .inl rfl
  | running =>
    simp only [State.settled, hr, Bool.or_eq_true, Bool.and_eq_true, List.isEmpty_iff] at h
    rcases h with h | ⟨hrb, hat⟩
    · cases h
    · exact .inr ⟨rfl, hat, hrb⟩

theorem HostSideKept.trans {s t u : State} (h : HostSideKept s t) (h' : HostSideKept t u) : HostSideKept s u := by
  obtain ⟨a, b, c, d, e, f, g⟩ := h
  obtain ⟨a', b', c', d', e', f', g'⟩ := h'
  exact ⟨a'.trans a, b'.trans b, c'.trans c, d'.trans d, e'.trans e, f'.trans f, g'.trans g⟩

/-- Settles O7: an accepted operation starts with steps that answer, every engine step keeps them so and the host's side
alone, and the run settles. -/
theorem wellFormedRequestsAccepted : Obligations.WellFormedRequestsAccepted := by
  intro i s ⟨hr, _, _, _, hsl⟩ hi
  have hend : Answerable [.done resOk] := fun _ => rfl
  have hstart : Answering (s.accept (stepsOf i s ++ [.done resOk])) :=
    ⟨resOk_ne_outOfRange, fun _ => (answerable_stepsOf i s).append hend _⟩
  obtain ⟨t, ht, hanswering, hkept⟩ :=
    drive_answers (P := fun t => Answering t ∧ HostSideKept s t)
      (fun ⟨ha, hk⟩ hu =>
        have ⟨u, he, hu'⟩ := ha.answers (running_of_unsettled hu)
        ⟨u, he, hu', hk.trans (engineStep_hostSideKept he)⟩)
      (s.accept (stepsOf i s ++ [.done resOk])).fuel ⟨hstart, rfl, rfl, rfl, rfl, rfl, rfl, rfl⟩
  refine ⟨t, ?_, hanswering.res, hkept, settled_cases (settle_settles (s := s.accept _) hsl ht)⟩
  rw [exec_eq_request, request_accept hr ((checksOf_pass_iff i s).2 hi)]
  exact ht

/-- Settles O8: the step of a decoded request; presenting it writes the operand fields (R24). -/
theorem stepRunsTheDecodedRequest : Obligations.StepRunsTheDecodedRequest :=
  fun _ _ _ _ hr hhost hd => step_request hr hhost hd

end Sys2Proof.Machine
end

section
/-! PROOFS. RESET and identification (O25 to O29): a phase of an operation is known by the pins it ends with, what is seen
of it and the answers it takes; phases in a row make the operation. -/

namespace Sys2Proof.Machine

/-! ### Phases of an operation -/

/-- `Phase tx p q ms seen rbs bytes`: the entries `ms` lead from pins `p` to pins `q` and this is seen of them, if the
environment answers `rbs` to their R/B# samples and `bytes` to their DQ samples. -/
def Phase (tx : Memory) (p q : Pins) (ms : List Micro) (seen : List Seen) (rbs : List Level) (bytes : List Byte) : Prop :=
  ∃ es, Plays tx p ms es ∧ pinsAfter p es = q ∧ observe p es = seen ∧ rbLevels es = rbs ∧ dqBytes es = bytes

theorem Phase.nil (tx : Memory) (p : Pins) : Phase tx p p [] [] [] [] := ⟨[], .nil p, rfl, rfl, rfl, rfl⟩

theorem Phase.append {tx : Memory} {p q r : Pins} {ms ns : List Micro} {a b : List Seen} {us vs : List Level}
    {bs cs : List Byte} (h : Phase tx p q ms a us bs) (h' : Phase tx q r ns b vs cs) :
    Phase tx p r (ms ++ ns) (a ++ b) (us ++ vs) (bs ++ cs) := by
  obtain ⟨es, hplays, rfl, rfl, rfl, rfl⟩ := h
  obtain ⟨fs, hplays', hq, rfl, rfl, rfl⟩ := h'
  exact ⟨es ++ fs, hplays.append hplays', by rw [pinsAfter_append, hq], observe_append .., rbLevels_append ..,
    dqBytes_append ..⟩

/-- A segment whose entries are a straight line is a phase without samples. -/
theorem Phase.of_line {ok : Pins → Event → Bool} {tx : Memory} {p q : Pins} {ms : List Micro} {es act : List Event}
    {seen : List Seen} (h : lineEvents tx p ms = some es) (hseg : Segment ok p q es seen act) :
    Phase tx p q ms seen [] [] := by
  obtain ⟨hrb, hdq⟩ := samples_of_lineEvents h
  exact ⟨es, .of_lineEvents h, hseg.pins, hseg.seen, hrb, hdq⟩

/-- An operation that is one phase from idle pins, its answers scripted, ends with what the phase says; RXBUF
is untouched if the phase takes no byte. -/
theorem exec_phase {i : Instr} {s : State} {q : Pins} {seen : List Seen} {rbs more : List Level} {n : Nat} (hs : s.Fresh)
    (hi : i.wellFormed s.mode s.maxBurst = true)
    (h : Phase s.opnd.txbuf s.pins q (stepsOf i s) seen rbs (dqAnswers s n)) (hrb : s.env.rb = rbs ++ more)
    (hroom : n < 2 ^ 32) :
    ∃ t, exec i s = .next t ∧ Completed s t q seen rbs.length n ∧ Received s t (dqAnswers s n) ∧
      (n = 0 → NothingReceived s t) := by
  obtain ⟨hr, -, hwf, -, hsl⟩ := hs
  obtain ⟨es, hplays, hq, hseen, hlevels, hbytes⟩ := h
  have hlen : (dqBytes es).length = n := by rw [hbytes, dqAnswers_length]
  obtain ⟨t, ht, hout⟩ := exec_plays hr hsl hi hplays (by rw [hlevels, hrb]; exact List.prefix_append ..)
    (by rw [hlen, hbytes]) (by rwa [hlen])
  have hsampled := hout.sampled
  rw [hlevels, hlen] at hsampled
  have hreceived := hout.received hwf (by rwa [hlen])
  rw [hbytes] at hreceived
  refine ⟨t, ht, ⟨hout.ended, hout.pins.trans hq, ⟨es, hout.trace, hseen⟩, hout.noRecord, hsampled⟩, hreceived, ?_⟩
  exact fun hn => hout.nothingReceived (List.length_eq_zero_iff.1 (hlen.trans hn))

/-! ### The phases of file 40 -/

/-- `DLY(tX)` (R265). -/
theorem Phase.delay (tx : Memory) (p : Pins) (tm : Timing) (x : TimingParam) :
    Phase tx p p (delay tm x) (seenDly tm x) [] [] :=
  ⟨[.dly x (tm.get x)], .event rfl (.nil p), rfl, rfl, rfl, rfl⟩

/-- WAIT_READY without a timeout (R128). -/
theorem Phase.waitReady (tx : Memory) (p : Pins) (k : Nat) :
    Phase tx p p waitReadySteps (seenReady k) (readyAfter k) [] := by
  obtain ⟨hrb, hdq⟩ := samples_readyEvents k
  have hseg := Segment.readyWait p k
  exact ⟨readyEvents k, .readyWait tx p k, hseg.pins, hseg.seen, hrb, hdq⟩

/-- tWB, then the wait (R265). -/
theorem Phase.busyWait (tx : Memory) (p : Pins) (tm : Timing) (k : Nat) :
    Phase tx p p (busyWaitSteps tm) (seenDly tm .tWB ++ seenReady k) (readyAfter k) [] :=
  (Phase.delay tx p tm .tWB).append (.waitReady tx p k)

section
variable {io : IdleOrder} {p : Pins} (hio : io.complete = true) (hp : p.isIdle = true)
include hio hp

/-- SEND_COMMAND (R121). -/
theorem Phase.command (tx : Memory) (b : Byte) : Phase tx p p (commandSteps io b) (seenCmd b) [] [] :=
  .of_line (lineEvents_command ..) (.write hio hp (.selectCommand hp) (cycle := .command) (fun _ => rfl) [b])

/-- SEND_ADDRESSES (R122). -/
theorem Phase.address (tx : Memory) (bs : List Byte) : Phase tx p p (addressSteps io bs) (seenAddr bs) [] [] :=
  .of_line (lineEvents_address ..) (.write hio hp (.selectAddress hp) (cycle := .address) (fun _ => rfl) bs)

/-- READ_DATA in either mode (R125 to R127). -/
theorem Phase.read (tx : Memory) (tm : Timing) (mode : Mode) (k : Nat) {n : Nat} {bs : List Byte} (hn : bs.length = n) :
    Phase tx p p (dataOutSteps io tm mode n) (seenRead tm k bs) (readyAfter k) bs := by
  have hburst : ∃ es re, ReadBurst tx mode p bs es re := by
    cases mode with
    | async => exact ⟨_, _, readBurst_async tx p bs⟩
    | toggle => exact ⟨_, _, readBurst_toggle tx p bs⟩
  obtain ⟨es, re, h⟩ := hburst
  obtain ⟨hrb, hdq⟩ := h.samples io tm k
  have hseg := h.whole hio hp tm k
  subst hn
  exact ⟨readEvents io tm k es, h.plays_whole hp io tm k, hseg.pins, hseg.seen, hrb, hdq⟩

/-- A command, address cycles, tWB and the wait: how the reads of file 41 begin (R152, R153, R154). -/
theorem Phase.commandAddressWait (tx : Memory) (tm : Timing) (b : Byte) (bs : List Byte) (k : Nat) :
    Phase tx p p (commandSteps io b ++ addressSteps io bs ++ busyWaitSteps tm)
      (seenCmd b ++ seenAddr bs ++ seenDly tm .tWB ++ seenReady k) (readyAfter k) [] := by
  have h := ((Phase.command hio hp tx b).append (.address hio hp tx bs)).append (.busyWait tx p tm k)
  rwa [← List.append_assoc] at h

/-- A change of column (R162). -/
theorem Phase.changeColumn (tx : Memory) (tm : Timing) (col : List Byte) :
    Phase tx p p (changeColumnSteps io tm col) (seenCmd 0x05 ++ seenAddr col ++ seenCmd 0xE0 ++ seenDly tm .tCCS) [] [] :=
  (((Phase.command hio hp tx cmdChangeColumn).append (.address hio hp tx col)).append
    (.command hio hp tx cmdChangeColumnConfirm)).append (.delay tx p tm .tCCS)

/-- One-byte reads from column `col` on, each after its change of column: `xs` holds, for each, how many samples find the
device busy, and the byte (R154, R161). -/
theorem Phase.columnReads (tx : Memory) (tm : Timing) (mode : Mode) (cc : BitVec 2) (col : Nat) (xs : List (Nat × Byte)) :
    Phase tx p p (burst (columnByteSteps io tm mode cc) col xs.length) (seenColumnReads tm cc col xs)
      (readyRuns (xs.map Prod.fst)) (xs.map Prod.snd) := by
  induction xs generalizing col with
  | nil => exact .nil tx p
  | cons x xs ih =>
    have hbyte : Phase tx p p (columnByteSteps io tm mode cc col) _ (readyAfter x.1) [x.2] :=
      (Phase.changeColumn hio hp tx tm (columnBytes cc col)).append (.read hio hp tx tm mode x.1 rfl)
    exact hbyte.append (ih (col + 1))

end

/-! ### RESET, READ_ID, READ_UNIQUE_ID, READ_PARAMETER_PAGE (R150 to R154) -/

/-- Settles O25: a command, tWB and the wait. -/
theorem resetSendsTheResetCommand : Obligations.ResetSendsTheResetCommand := by
  intro s k more hs hrb
  have ⟨_, hidle, _, hio, _⟩ := hs
  have hphase := (Phase.command hio hidle s.opnd.txbuf cmdReset).append (.busyWait _ _ s.timing k)
  rw [← List.append_assoc] at hphase
  obtain ⟨t, ht, hdone, -, hnone⟩ := exec_phase (i := .reset) (n := 0) hs rfl hphase hrb (by decide)
  rw [List.nil_append, readyAfter_length] at hdone
  exact ⟨t, ht, hdone, hnone rfl⟩

/-- Settles O26: a command, one address byte, tWHR and the read. -/
theorem readIdReadsTheId : Obligations.ReadIdReadsTheId := by
  intro b c s k more hs hc hrb
  have ⟨_, hidle, _, hio, _⟩ := hs
  have hphase := (((Phase.command hio hidle s.opnd.txbuf cmdReadId).append (.address hio hidle _ [b])).append
    (.delay _ _ s.timing .tWHR)).append (.read hio hidle _ s.timing s.mode k (dqAnswers_length s c.toNat))
  obtain ⟨t, ht, hdone, hreceived, -⟩ := exec_phase (i := .readId b c) hs (decide_eq_true hc) hphase hrb c.isLt
  simp only [List.nil_append, readyAfter_length] at hdone
  exact ⟨t, ht, hdone, hreceived⟩

/-- Two ready waits, `k` and `l` samples of 0 before their 1. -/
theorem readyAfter_append_length (k l : Nat) : (readyAfter k ++ readyAfter l).length = k + 1 + (l + 1) := by simp

/-- Settles O27: the command phase, then the read of 32 bytes. -/
theorem readUniqueIdReadsThirtyTwoBytes : Obligations.ReadUniqueIdReadsThirtyTwoBytes := by
  intro s k l more hs hrb
  have ⟨_, hidle, _, hio, _⟩ := hs
  have hphase := (Phase.commandAddressWait hio hidle s.opnd.txbuf s.timing cmdReadUniqueId [addrUniqueId] k).append
    (.read hio hidle _ s.timing s.mode l (dqAnswers_length s uniqueIdBytes))
  rw [← List.append_assoc] at hrb
  obtain ⟨t, ht, hdone, hreceived, -⟩ := exec_phase (i := .readUniqueId) hs rfl hphase hrb (by decide)
  rw [readyAfter_append_length] at hdone
  exact ⟨t, ht, hdone, hreceived⟩

/-- Settles O28: the command phase, then the read of 256 bytes. -/
theorem readParameterPageBulk : Obligations.ReadParameterPageBulk := by
  intro jedec s k l more hs hrb
  have ⟨_, hidle, _, hio, _⟩ := hs
  have hphase := (Phase.commandAddressWait hio hidle s.opnd.txbuf s.timing cmdReadParameterPage
    [parameterPageAddr jedec] k).append (.read hio hidle _ s.timing s.mode l (dqAnswers_length s parameterPageBytes))
  rw [← List.append_assoc] at hrb
  obtain ⟨t, ht, hdone, hreceived, -⟩ :=
    exec_phase (i := .readParameterPage jedec none) hs rfl hphase hrb (by decide)
  rw [readyAfter_append_length] at hdone
  exact ⟨t, ht, hdone, hreceived⟩

/-- The answers to the first `m` of `n` samples, then the others. -/
theorem dqAnswers_split (s : State) {m n : Nat} (h : m ≤ n) :
    dqAnswers s n = dqAnswers s m ++ (dqAnswers s n).drop m := by
  obtain ⟨k, rfl⟩ := Nat.exists_eq_add_of_le h
  rw [dqAnswers_add, List.drop_left' (dqAnswers_length ..)]

/-- Settles O29: the command phase, the read of byte 0, then the 255 other bytes, each after its change of column. -/
theorem readParameterPageBytewise : Obligations.ReadParameterPageBytewise := by
  intro jedec cc s k l ks more hs hcc hks hrb
  have ⟨_, hidle, _, hio, _⟩ := hs
  have hlen : ks.length = ((dqAnswers s 256).drop 1).length := by simp [hks]
  have hcolumns := Phase.columnReads hio hidle s.opnd.txbuf s.timing s.mode cc 1
    (ks.zip ((dqAnswers s 256).drop 1))
  rw [List.length_zip, ← hlen, Nat.min_self, hks, List.map_fst_zip hlen.le, List.map_snd_zip hlen.ge] at hcolumns
  have hreads := (Phase.read hio hidle s.opnd.txbuf s.timing s.mode l (dqAnswers_length s 1)).append hcolumns
  rw [← dqAnswers_split s (by decide)] at hreads
  have hphase := (Phase.commandAddressWait hio hidle s.opnd.txbuf s.timing cmdReadParameterPage
    [parameterPageAddr jedec] k).append hreads
  have hwell : (Instr.readParameterPage jedec (some cc)).wellFormed s.mode s.maxBurst = true := by
    simpa [Instr.wellFormed, WellFormed.ccyc] using hcc
  obtain ⟨t, ht, hdone, hreceived, -⟩ := exec_phase hs hwell hphase (more := more) (by simpa using hrb) (by decide)
  refine ⟨t, ht, ?_, hreceived⟩
  have hcount : (readyAfter k ++ (readyAfter l ++ readyRuns ks)).length = k + 1 + (l + 1) + samplesOf ks := by
    simp [samplesOf, Nat.add_assoc]
  rw [hcount, ← List.append_assoc] at hdone
  exact hdone

end Sys2Proof.Machine
end

section
/-! PROOFS. PAGE_READ and CHANGE_READ_COLUMN (O30 to O32): the command sequence of a page read up to its wait, then one
burst or one-byte reads. -/

namespace Sys2Proof.Machine

/-! ### Phases of a page read (R160, R161) -/

/-- What is seen of the command sequence of a page read up to its go byte (R160). -/
def seenReadGo (pre00 : Bool) (addr : List Byte) : List Seen :=
  (if pre00 then seenCmd 0x00 else []) ++ seenCmd 0x00 ++ seenAddr addr ++ seenCmd 0x30

section
variable {io : IdleOrder} {p : Pins} (hio : io.complete = true) (hp : p.isIdle = true)
include hio hp

/-- The command sequence of a page read: the optional first 0x00, command, address, confirm (R160, R203). -/
theorem Phase.readGo (tx : Memory) (pre00 : Bool) (addr : List Byte) :
    Phase tx p p (readGoSteps io pre00 addr) (seenReadGo pre00 addr) [] [] := by
  have hfirst : Phase tx p p (if pre00 then commandSteps io cmdRead else [])
      (if pre00 then seenCmd 0x00 else []) [] [] := by
    cases pre00 with
    | false => exact .nil tx p
    | true => exact .command hio hp tx cmdRead
  exact ((hfirst.append (.command hio hp tx cmdRead)).append (.address hio hp tx addr)).append
    (.command hio hp tx cmdReadConfirm)

/-- The command sequence, tWB and the wait: how both forms of PAGE_READ begin. -/
theorem Phase.readGoWait (tx : Memory) (tm : Timing) (pre00 : Bool) (addr : List Byte) (k : Nat) :
    Phase tx p p (readGoSteps io pre00 addr ++ busyWaitSteps tm)
      (seenReadGo pre00 addr ++ seenDly tm .tWB ++ seenReady k) (readyAfter k) [] := by
  have h := (Phase.readGo hio hp tx pre00 addr).append (.busyWait tx p tm k)
  rwa [← List.append_assoc] at h

/-- One-byte reads from column `col` on, the waits `ks` and the bytes `bs` given apart. -/
theorem Phase.columnReads_zip (tx : Memory) (tm : Timing) (mode : Mode) (cc : BitVec 2) (col : Nat) {ks : List Nat}
    {bs : List Byte} (hlen : ks.length = bs.length) :
    Phase tx p p (burst (columnByteSteps io tm mode cc) col bs.length) (seenColumnReads tm cc col (ks.zip bs))
      (readyRuns ks) bs := by
  have h := Phase.columnReads hio hp tx tm mode cc col (ks.zip bs)
  rwa [List.length_zip, hlen, Nat.min_self, List.map_fst_zip hlen.le, List.map_snd_zip hlen.ge] at h

end

/-- The operands of PAGE_READ are inside their ranges (R93). -/
theorem pageRead_wellFormed {mode : Mode} {maxBurst : Nat} {n : BitVec 4} {c : Word32} {bytewise : Option (BitVec 2)}
    (hn : n.toNat ≤ 8) (hc : c.toNat ≤ maxBurst) (hcc : WellFormed.ccyc bytewise = true) (a : AddrArray) (pre00 : Bool) :
    (Instr.pageRead a n c pre00 bytewise).wellFormed mode maxBurst = true := by
  simp [Instr.wellFormed, WellFormed.alen, WellFormed.count, hn, hc, hcc]

/-! ### PAGE_READ and CHANGE_READ_COLUMN (R160 to R162) -/

/-- Settles O30: the command sequence with its wait, then one read of `COUNT` bytes. -/
theorem pageReadBulk : Obligations.PageReadBulk := by
  intro a n c pre00 s k l more hs hn hc hrb
  have ⟨_, hidle, _, hio, _⟩ := hs
  have hphase := (Phase.readGoWait hio hidle s.opnd.txbuf s.timing pre00 (addrBytes a n) k).append
    (.read hio hidle _ s.timing s.mode l (dqAnswers_length s c.toNat))
  rw [← List.append_assoc] at hrb
  obtain ⟨t, ht, hdone, hreceived, -⟩ := exec_phase (i := .pageRead a n c pre00 none) hs
    (pageRead_wellFormed hn hc rfl a pre00) hphase hrb c.isLt
  rw [readyAfter_append_length] at hdone
  exact ⟨t, ht, hdone, hreceived⟩

/-- Settles O31: the command sequence with its wait, then `COUNT` one-byte reads from column 0 on. -/
theorem pageReadBytewise : Obligations.PageReadBytewise := by
  intro a n c pre00 cc s k ks more hs hn hc hcc hks hrb
  have ⟨_, hidle, _, hio, _⟩ := hs
  have hcolumns := Phase.columnReads_zip hio hidle s.opnd.txbuf s.timing s.mode cc 0
    (hks.trans (dqAnswers_length s c.toNat).symm)
  rw [dqAnswers_length] at hcolumns
  have hphase := (Phase.readGoWait hio hidle s.opnd.txbuf s.timing pre00 (addrBytes a n) k).append hcolumns
  have hccyc : WellFormed.ccyc (some cc) = true := by simpa [WellFormed.ccyc] using hcc
  rw [← List.append_assoc] at hrb
  obtain ⟨t, ht, hdone, hreceived, -⟩ := exec_phase (i := .pageRead a n c pre00 (some cc)) hs
    (pageRead_wellFormed hn hc hccyc a pre00) hphase hrb c.isLt
  have hcount : (readyAfter k ++ readyRuns ks).length = k + 1 + samplesOf ks := by simp [samplesOf]
  rw [hcount] at hdone
  exact ⟨t, ht, hdone, hreceived⟩

/-- Settles O32: the change of column is one phase without samples. -/
theorem changeReadColumnSendsTheColumn : Obligations.ChangeReadColumnSendsTheColumn := by
  intro a n s hs hn
  have ⟨_, hidle, _, hio, _⟩ := hs
  have hphase := Phase.changeColumn hio hidle s.opnd.txbuf s.timing (addrBytes a n)
  obtain ⟨t, ht, hdone, -, hnone⟩ := exec_phase (i := .changeReadColumn a n) (n := 0) (more := s.env.rb) hs
    (decide_eq_true hn) hphase rfl (by decide)
  exact ⟨t, ht, hdone, hnone rfl⟩

end Sys2Proof.Machine
end

section
/-! PROOFS. PAGE_PROGRAM and BLOCK_ERASE (O33, O34): the data burst as a phase in either mode, the command sequences of a
program and of an erase up to their go byte, then the wait. -/

namespace Sys2Proof.Machine

/-! ### Phases of a program and of an erase (R170, R172) -/

/-- A burst moves only the strobe latches, so the pins stay idle behind it. -/
theorem Pins.afterDataIn_isIdle {p : Pins} (hp : p.isIdle = true) (mode : Mode) : (p.afterDataIn mode).isIdle = true := by
  cases mode with
  | async => exact hp
  | toggle => rw [Pins.idle_eq hp]; rfl

/-- What is seen of the command sequence of a page program up to its go byte `k` (R170). -/
def seenProgramGo (tm : Timing) (addr bs : List Byte) (k : Byte) : List Seen :=
  seenCmd 0x80 ++ seenAddr addr ++ seenDly tm .tADL ++ seenData bs ++ seenCmd k

/-- What is seen of the command sequence of an erase up to its go byte (R172). -/
def seenEraseGo (addr : List Byte) : List Seen := seenCmd 0x60 ++ seenAddr addr ++ seenCmd 0xD0

section
variable {io : IdleOrder} {p : Pins} (hio : io.complete = true) (hp : p.isIdle = true)
include hio hp

/-- SEND_DATA in either mode (R123, R124): a TOGGLE burst is even (R67). -/
theorem Phase.dataIn (tx : Memory) {mode : Mode} {n : Nat} (heven : mode = .toggle → n % 2 = 0) :
    Phase tx p (p.afterDataIn mode) (dataInSteps io mode n) (seenData (tx.take n)) [] [] := by
  cases mode with
  | async =>
    exact .of_line (lineEvents_sendDataAsync ..)
      (.write hio hp (.selectData hp) (cycle := .dataIn) (fun _ => rfl) (tx.take n))
  | toggle =>
    have hlen : (tx.take n).length % 2 = 0 := by simpa [Memory.take] using heven rfl
    exact .of_line (lineEvents_sendDataToggle tx hp io n) (.sendToggle hio hp hlen)

/-- The command sequence of a page program: command, address, tADL, data, go byte (R170, R192, R194, R204). -/
theorem Phase.programGo (tx : Memory) (tm : Timing) {mode : Mode} (addr : List Byte) {n : Nat}
    (heven : mode = .toggle → n % 2 = 0) (k : Byte) :
    Phase tx p (p.afterDataIn mode) (programGoSteps io tm mode addr n k) (seenProgramGo tm addr (tx.take n) k) [] [] :=
  ((((Phase.command hio hp tx cmdProgram).append (.address hio hp tx addr)).append (.delay tx p tm .tADL)).append
    (.dataIn hio hp tx heven)).append (.command hio (Pins.afterDataIn_isIdle hp mode) tx k)

/-- The command sequence of an erase: command, address, confirm (R172, R190, R205). -/
theorem Phase.eraseGo (tx : Memory) (addr : List Byte) :
    Phase tx p p (eraseGoSteps io addr) (seenEraseGo addr) [] [] :=
  ((Phase.command hio hp tx cmdErase).append (.address hio hp tx addr)).append (.command hio hp tx cmdEraseConfirm)

end

/-- A burst that is even in TOGGLE mode obeys the alignment rule (R67). -/
theorem parity_of_even {mode : Mode} {c : Word32} (heven : mode = .toggle → c.toNat % 2 = 0) :
    WellFormed.parity mode c = true := by
  cases mode with
  | async => rfl
  | toggle => exact decide_eq_true (heven rfl)

/-- The operands of PAGE_PROGRAM are inside their ranges (R93). -/
theorem pageProgram_wellFormed {mode : Mode} {maxBurst : Nat} {n : BitVec 4} {c : Word32} (hn : n.toNat ≤ 8)
    (hc : c.toNat ≤ maxBurst) (heven : mode = .toggle → c.toNat % 2 = 0) (a : AddrArray) (k : Byte) :
    (Instr.pageProgram a n c k).wellFormed mode maxBurst = true := by
  simp [Instr.wellFormed, WellFormed.alen, WellFormed.count, hn, hc, parity_of_even heven]

/-- An operation that is a phase without samples, then tWB and the wait, ends with what both show, and receives nothing. -/
theorem exec_phaseThenWait {i : Instr} {s : State} {q : Pins} {ms : List Micro} {seen : List Seen} {k : Nat}
    {more : List Level} (hs : s.Fresh) (hi : i.wellFormed s.mode s.maxBurst = true)
    (hsteps : stepsOf i s = ms ++ busyWaitSteps s.timing) (h : Phase s.opnd.txbuf s.pins q ms seen [] [])
    (hrb : s.env.rb = readyAfter k ++ more) :
    ∃ t, exec i s = .next t ∧ Completed s t q (seen ++ seenDly s.timing .tWB ++ seenReady k) (k + 1) 0 ∧
      NothingReceived s t := by
  have hphase := h.append (.busyWait s.opnd.txbuf q s.timing k)
  rw [← hsteps, ← List.append_assoc, List.nil_append] at hphase
  obtain ⟨t, ht, hdone, -, hnone⟩ := exec_phase (n := 0) hs hi hphase hrb (by decide)
  rw [readyAfter_length] at hdone
  exact ⟨t, ht, hdone, hnone rfl⟩

/-! ### PAGE_PROGRAM and BLOCK_ERASE (R170, R172) -/

/-- Settles O33: the command sequence of a page program, then tWB and the wait. -/
theorem pageProgramSendsAddressDataConfirm : Obligations.PageProgramSendsAddressDataConfirm := by
  intro a n c confirm s k more hs hn hc heven hrb
  have ⟨_, hidle, _, hio, _⟩ := hs
  exact exec_phaseThenWait hs (pageProgram_wellFormed hn hc heven a confirm) rfl
    (.programGo hio hidle _ s.timing (addrBytes a n) heven confirm) hrb

/-- Settles O34: the command sequence of an erase, then tWB and the wait. -/
theorem blockEraseSendsRowAndConfirm : Obligations.BlockEraseSendsRowAndConfirm := by
  intro a n s k more hs hn hrb
  have ⟨_, hidle, _, hio, _⟩ := hs
  exact exec_phaseThenWait (i := .blockErase a n) hs (decide_eq_true hn) rfl
    (.eraseGo hio hidle _ (addrBytes a n)) hrb

end Sys2Proof.Machine
end

section
/-! PROOFS. Features and status (O35 to O37): the command sequence that writes a feature, the status read as a phase of
its own, and the three operations. -/

namespace Sys2Proof.Machine

/-! ### Phases of the feature and status operations (R180, R184) -/

section
variable {io : IdleOrder} {p : Pins} (hio : io.complete = true) (hp : p.isIdle = true)
include hio hp

/-- The command sequence of SET_FEATURES (R180): four data bytes are an even burst, as TOGGLE mode needs (R67). -/
theorem Phase.featureWrite (tx : Memory) (tm : Timing) (mode : Mode) (f : Byte) :
    Phase tx p (p.afterDataIn mode)
      (commandSteps io cmdSetFeatures ++ addressSteps io [f] ++ Machine.delay tm .tADL ++
        dataInSteps io mode featureBytes)
      (seenCmd 0xEF ++ seenAddr [f] ++ seenDly tm .tADL ++ seenData (tx.take 4)) [] [] :=
  (((Phase.command hio hp tx cmdSetFeatures).append (.address hio hp tx [f])).append (.delay tx p tm .tADL)).append
    (.dataIn hio hp tx fun _ => rfl)

/-- The status read: command, tWHR (D16), and a one-byte read whose ready wait comes before the sample (R125, R184). -/
theorem Phase.status (tx : Memory) (tm : Timing) (mode : Mode) (k : Nat) {bs : List Byte} (hbs : bs.length = 1) :
    Phase tx p p (statusSteps io tm mode) (seenCmd 0x70 ++ seenDly tm .tWHR ++ seenRead tm k bs) (readyAfter k) bs :=
  ((Phase.command hio hp tx cmdReadStatus).append (.delay tx p tm .tWHR)).append (.read hio hp tx tm mode k hbs)

end

/-! ### SET_FEATURES, GET_FEATURES, READ_STATUS (R180, R182, R184) -/

/-- Settles O35: the command sequence with its four bytes, then tWB and the wait. -/
theorem setFeaturesSendsFourBytes : Obligations.SetFeaturesSendsFourBytes := by
  intro f s k more hs hrb
  have ⟨_, hidle, _, hio, _⟩ := hs
  exact exec_phaseThenWait (i := .setFeatures f) hs rfl rfl (.featureWrite hio hidle _ s.timing s.mode f) hrb

/-- Settles O36: the command phase with its wait, then the read of four bytes. -/
theorem getFeaturesReadsFourBytes : Obligations.GetFeaturesReadsFourBytes := by
  intro f s k l more hs hrb
  have ⟨_, hidle, _, hio, _⟩ := hs
  have hphase := (Phase.commandAddressWait hio hidle s.opnd.txbuf s.timing cmdGetFeatures [f] k).append
    (.read hio hidle _ s.timing s.mode l (dqAnswers_length s featureBytes))
  rw [← List.append_assoc] at hrb
  obtain ⟨t, ht, hdone, hreceived, -⟩ := exec_phase (i := .getFeatures f) hs rfl hphase hrb (by decide)
  rw [readyAfter_append_length] at hdone
  exact ⟨t, ht, hdone, hreceived⟩

/-- Settles O37: the status read alone, its byte received as it is. -/
theorem readStatusReadsOneByte : Obligations.ReadStatusReadsOneByte := by
  intro s k more hs hrb
  have ⟨_, hidle, _, hio, _⟩ := hs
  obtain ⟨t, ht, hdone, hreceived, -⟩ := exec_phase (i := .readStatus) hs rfl
    (.status hio hidle _ s.timing s.mode k (dqAnswers_length s 1)) hrb (by decide)
  rw [readyAfter_length] at hdone
  exact ⟨t, ht, hdone, hreceived⟩

end Sys2Proof.Machine
end

section
/-! PROOFS. Partial and TLC operations (O38 to O40): the abort behind a go byte (SPIN, 0xFF, tWB, wait) once for the
erase and the program that use it, and the program sequence behind a subpage index. -/

namespace Sys2Proof.Machine

/-! ### The abort (R190, R194) -/

/-- `SPIN(LOOPS)` (R265). -/
theorem Phase.spin (tx : Memory) (p : Pins) (loops : Word32) : Phase tx p p [.spin loops] [.spin loops] [] [] :=
  ⟨[.spin loops], .event rfl (.nil p), rfl, rfl, rfl, rfl⟩

/-- An operation that is a phase without samples back to idle pins, then the abort, ends with what both show, the 0xFF
right behind the spin, and receives nothing. -/
theorem exec_phaseThenAbort {i : Instr} {s : State} {q : Pins} {ms : List Micro} {seen : List Seen} {loops : Word32}
    {k : Nat} {more : List Level} (hs : s.Fresh) (hi : i.wellFormed s.mode s.maxBurst = true)
    (hsteps : stepsOf i s = ms ++ abortSteps s.idleOrder s.timing loops)
    (h : Phase s.opnd.txbuf s.pins q ms seen [] []) (hq : q.isIdle = true) (hrb : s.env.rb = readyAfter k ++ more) :
    ∃ t, exec i s = .next t ∧
      Completed s t q (seen ++ [.spin loops] ++ seenCmd 0xFF ++ seenDly s.timing .tWB ++ seenReady k) (k + 1) 0 ∧
      NothingReceived s t := by
  have ⟨_, _, _, hio, _⟩ := hs
  have habort := (h.append (.spin _ q loops)).append (.command hio hq _ cmdReset)
  have hsplit : stepsOf i s =
      ms ++ [.spin loops] ++ commandSteps s.idleOrder cmdReset ++ busyWaitSteps s.timing := by
    simp only [hsteps, abortSteps, List.append_assoc]
  exact exec_phaseThenWait hs hi hsplit habort hrb

/-! ### PARTIAL_ERASE, TLC_SUBPAGE_PROGRAM, PARTIAL_PROGRAM (R190 to R194) -/

/-- The operands of TLC_SUBPAGE_PROGRAM are inside their ranges (R93): a subpage, and the operands of PAGE_PROGRAM. -/
theorem tlcSubpageProgram_wellFormed {mode : Mode} {maxBurst : Nat} {x : Byte} {n : BitVec 4} {c : Word32}
    (hx : x = 1 ∨ x = 2 ∨ x = 3) (hn : n.toNat ≤ 8) (hc : c.toNat ≤ maxBurst)
    (heven : mode = .toggle → c.toNat % 2 = 0) (a : AddrArray) :
    (Instr.tlcSubpageProgram x a n c).wellFormed mode maxBurst = true := by
  have hsub : WellFormed.subpage x = true := (checkSubpage_none x).1 (if_pos hx)
  have hprogram := pageProgram_wellFormed hn hc heven a (tlcConfirm x)
  simpa [Instr.wellFormed, hsub] using hprogram

/-- The confirm byte of a subpage (R192): of the three only subpage 3 has the confirm of PAGE_PROGRAM. -/
theorem tlcConfirm_of_subpage {x : Byte} (hx : x = 1 ∨ x = 2 ∨ x = 3) :
    tlcConfirm x = if x = 3 then 0x10 else 0x1A := by
  obtain rfl | rfl | rfl := hx <;> rfl

/-- Settles O38: the command sequence of an erase, then the abort. -/
theorem partialEraseAborts : Obligations.PartialEraseAborts := by
  intro a n loops s k more hs hn hrb
  have ⟨_, hidle, _, hio, _⟩ := hs
  exact exec_phaseThenAbort (i := .partialErase a n loops) hs (decide_eq_true hn) rfl
    (.eraseGo hio hidle _ (addrBytes a n)) hidle hrb

/-- Settles O39: the index as a command, the command sequence of a program with the confirm byte of the subpage, then
tWB and the wait. -/
theorem tlcSubpageProgramPicksTheConfirm : Obligations.TlcSubpageProgramPicksTheConfirm := by
  intro x a n c s k more hs hx hn hc heven hrb
  have ⟨_, hidle, _, hio, _⟩ := hs
  have hprogram := (Phase.command hio hidle s.opnd.txbuf x).append
    (.programGo hio hidle _ s.timing (addrBytes a n) heven (tlcConfirm x))
  have hrun := exec_phaseThenWait (i := .tlcSubpageProgram x a n c) hs
    (tlcSubpageProgram_wellFormed hx hn hc heven a) rfl hprogram hrb
  simpa only [seenProgramGo, tlcConfirm_of_subpage hx, addrBytes, List.append_assoc] using hrun

/-- Settles O40: the command sequence of a program, its operands in the ranges of PAGE_PROGRAM, then the abort. -/
theorem partialProgramAborts : Obligations.PartialProgramAborts := by
  intro a n c confirm loops s k more hs hn hc heven hrb
  have ⟨_, hidle, _, hio, _⟩ := hs
  exact exec_phaseThenAbort (i := .partialProgram a n c confirm loops) hs
    (pageProgram_wellFormed hn hc heven a confirm) rfl
    (.programGo hio hidle _ s.timing (addrBytes a n) heven confirm) (Pins.afterDataIn_isIdle hidle s.mode) hrb

end Sys2Proof.Machine
end

section
/-! PROOFS. How far an accepted operation has come: a `Progress` holds all of the state that its steps change, its
sequencer and its trace aside, and each part of an operation leads from one progress to the next. -/

namespace Sys2Proof.Machine

/-! ### Progress of an operation -/

/-- Where an accepted operation stands: the steps left, the pins, the answers the environment has left and how many were
taken, the last clock value, the results, and how many DQ bytes were received. -/
structure Progress where
  todo : List Micro
  pins : Pins
  rb : List Level
  rbN : Nat
  clk : List Word64
  clkN : Nat
  last : Word64
  record : TimingRecord
  fetched : Bool
  bytes : Nat

/-- An operation right after its acceptance in state `s` (R132). -/
def Progress.start (s : State) (steps : List Micro) : Progress :=
  { todo := steps, pins := s.pins, rb := s.env.rb, rbN := 0, clk := s.env.clk, clkN := 0, last := s.clkLast,
    record := .zero, fetched := false, bytes := 0 }

/-- The state of a progress since the acceptance in state `s`, the sequencer and the trace as at the acceptance. -/
def Progress.state (g : Progress) (s : State) : State :=
  { s.accept g.todo with
    pins := g.pins, clkLast := g.last, record := g.record, fetched := g.fetched,
    env := { rb := g.rb, rbN := s.env.rbN + g.rbN, dq := s.env.dq.drop g.bytes, dqN := s.env.dqN + g.bytes,
             clk := g.clk, clkN := s.env.clkN + g.clkN },
    rxbuf := Memory.writeList s.rxbuf 0 (dqAnswers s g.bytes), rxlen := BitVec.ofNat 32 g.bytes }

/-- The same state with another position of the sequencer, other locals (R128, R200) and another trace. -/
def State.positioned (s : State) (seq idx : Nat) (t0 busy : Word64) (tr : List Event) : State :=
  { s with seq := seq, idx := idx, tStart := t0, busyStart := busy, trace := tr }

/-- The engine goes from one progress to another, wherever the sequencer is, and this is seen of it. -/
def Goes (s : State) (g g' : Progress) (seen : List Seen) : Prop :=
  ∀ q x a b tr, ∃ q' x' a' b' tr',
    Run ((g.state s).positioned q x a b tr) ((g'.state s).positioned q' x' a' b' tr') seen

/-- An accepted operation comes to stand at `g`, and this is seen of it until then. -/
structure Reaches (i : Instr) (s : State) (g : Progress) (seen : List Seen) : Prop where
  run : ∃ q x a b tr, Run (s.accept (stepsOf i s ++ [.done resOk])) ((g.state s).positioned q x a b tr) seen
  rb : s.env.rb.drop g.rbN = g.rb
  clk : s.env.clk.drop g.clkN = g.clk

theorem Reaches.start (i : Instr) (s : State) :
    Reaches i s (.start s (stepsOf i s ++ [.done resOk])) [] := by
  refine ⟨⟨0, 0, s.tStart, s.busyStart, s.trace, ?_⟩, rfl, rfl⟩
  have hstate (steps : List Micro) :
      ((Progress.start s steps).state s).positioned 0 0 s.tStart s.busyStart s.trace = s.accept steps := by
    simp [Progress.start, Progress.state, State.positioned, State.accept, dqAnswers, Memory.writeList]
  rw [hstate]
  exact .refl _

/-- Going on: the answers taken on the way are the next ones. -/
theorem Reaches.goes {i : Instr} {s : State} {g g' : Progress} {seen more : List Seen} (h : Reaches i s g seen)
    (hgo : Goes s g g' more) (rbs : List Level) (clks : List Word64) (hrb : g.rb = rbs ++ g'.rb)
    (hrbN : g'.rbN = g.rbN + rbs.length) (hclk : g.clk = clks ++ g'.clk) (hclkN : g'.clkN = g.clkN + clks.length) :
    Reaches i s g' (seen ++ more) := by
  obtain ⟨⟨q, x, a, b, tr, hrun⟩, hrb', hclk'⟩ := h
  obtain ⟨q', x', a', b', tr', hrun'⟩ := hgo q x a b tr
  refine ⟨⟨q', x', a', b', tr', hrun.trans hrun'⟩, ?_, ?_⟩
  · rw [hrbN, ← List.drop_drop, hrb', hrb, List.drop_left]
  · rw [hclkN, ← List.drop_drop, hclk', hclk, List.drop_left]

/-! ### The end of an operation -/

/-- What an operation leaves that came to stand at `g` with `RES <- code` as its last step. -/
structure EndsAt (s t : State) (g : Progress) (seen : List Seen) (code : Byte) : Prop where
  ended : Ended s t code
  pins : t.pins = g.pins
  shown : Shown s t seen
  record : t.record = g.record
  fetched : t.fetched = g.fetched
  clocked : Clocked s t g.rbN g.bytes g.clkN g.last
  rxlen : t.rxlen = BitVec.ofNat 32 g.bytes
  rxbuf : t.rxbuf = Memory.writeList s.rxbuf 0 (dqAnswers s g.bytes)

/-- A request inside its ranges that comes to stand at its last step ends there. -/
theorem Reaches.ends {i : Instr} {s : State} {g : Progress} {seen : List Seen} {code : Byte} (h : Reaches i s g seen)
    (ht : g.todo = [.done code]) (hs : s.Fresh) (hi : i.wellFormed s.mode s.maxBurst = true) :
    ∃ t, exec i s = .next t ∧ EndsAt s t g seen code := by
  obtain ⟨hr, -, -, -, hsl⟩ := hs
  obtain ⟨⟨q, x, a, b, tr, hrun⟩, hrb, hclk⟩ := h
  obtain ⟨hexec, hshown⟩ := request_ends (code := code) hr hsl ((checksOf_pass_iff i s).2 hi) hrun ht rfl
  rw [← exec_eq_request] at hexec
  exact ⟨_, hexec,
    { ended := ⟨rfl, rfl, rfl, rfl, rfl, rfl, rfl, rfl, rfl⟩
      pins := rfl
      shown := hshown
      record := rfl
      fetched := rfl
      clocked := ⟨rfl, by rw [hrb, hclk]; rfl⟩
      rxlen := rfl
      rxbuf := rfl }⟩

theorem EndsAt.nothingReceived {s t : State} {g : Progress} {seen : List Seen} {code : Byte}
    (h : EndsAt s t g seen code) (hg : g.bytes = 0) : NothingReceived s t :=
  ⟨by rw [h.rxlen, hg]; rfl, by rw [h.rxbuf, hg]; rfl⟩

theorem EndsAt.received {s t : State} {g : Progress} {seen : List Seen} {code : Byte} (h : EndsAt s t g seen code)
    (hwf : Memory.wf s.rxbuf = true) (hroom : g.bytes < 2 ^ 32) : Received s t (dqAnswers s g.bytes) :=
  received_writeList _ hwf h.rxbuf
    (by rw [h.rxlen, BitVec.toNat_ofNat, Nat.mod_eq_of_lt hroom, dqAnswers_length])

/-! ### Phases, assignments and bounded loops as parts of an operation -/

theorem writeList_append (m : Memory) (a : Nat) (bs cs : List Byte) :
    Memory.writeList m a (bs ++ cs) = Memory.writeList (Memory.writeList m a bs) (a + bs.length) cs := by
  induction bs generalizing m a with
  | nil => rfl
  | cons b bs ih =>
    rw [List.cons_append, Memory.writeList, ih, List.length_cons, Nat.add_assoc, Nat.add_comm 1]; rfl

section
variable {i : Instr} {s : State} {g : Progress} {seen more : List Seen} {rest : List Micro}

/-- A phase whose answers are the environment's next ones. -/
theorem Reaches.phase {ms : List Micro} {q : Pins} {rbs left : List Level} {bytes : List Byte}
    (h : Reaches i s g seen) (hph : Phase s.opnd.txbuf g.pins q ms more rbs bytes) (ht : g.todo = ms ++ rest)
    (hrb : g.rb = rbs ++ left) (hdq : dqAnswers s (g.bytes + bytes.length) = dqAnswers s g.bytes ++ bytes)
    (hroom : g.bytes + bytes.length < 2 ^ 32) :
    Reaches i s
      { g with
        todo := rest, pins := q, rb := left, rbN := g.rbN + rbs.length, bytes := g.bytes + bytes.length }
      (seen ++ more) := by
  refine h.goes (fun n x a b tr => ?_) rbs [] hrb rfl rfl rfl
  obtain ⟨es, hplays, rfl, rfl, rfl, rfl⟩ := hph
  have hsplit := dqAnswers_add s g.bytes (dqBytes es).length
  have hnext : dqAnswers ((g.state s).positioned n x a b tr) (dqBytes es).length = dqBytes es :=
    List.append_cancel_left (hsplit.symm.trans hdq)
  have hlen : ((g.state s).positioned n x a b tr).rxlen.toNat = g.bytes := by
    show (BitVec.ofNat 32 g.bytes).toNat = g.bytes
    rw [BitVec.toNat_ofNat, Nat.mod_eq_of_lt (by omega)]
  obtain ⟨n', x', hpath⟩ := Path.plays (s := (g.state s).positioned n x a b tr) (rest := rest) rfl ht hplays
    ⟨⟨left, hrb.symm⟩, hnext, by rw [hlen]; exact hroom⟩
  refine ⟨n', x', a, b, tr ++ es, ?_, es, rfl, rfl, rfl⟩
  convert hpath using 1
  have hbuf : Memory.writeList s.rxbuf 0 (dqAnswers s (g.bytes + (dqBytes es).length)) =
      Memory.writeList (Memory.writeList s.rxbuf 0 (dqAnswers s g.bytes)) g.bytes (dqBytes es) := by
    rw [hdq, writeList_append, dqAnswers_length, Nat.zero_add]
  simp only [State.played, State.received, State.sequencerAt, hnext, hlen]
  simp [Progress.state, State.positioned, State.accept, hbuf, hrb, Nat.add_assoc, BitVec.ofNat_add]

/-- A phase that takes no answers. -/
theorem Reaches.line {ms : List Micro} {q : Pins} (h : Reaches i s g seen)
    (hph : Phase s.opnd.txbuf g.pins q ms more [] []) (ht : g.todo = ms ++ rest) (hroom : g.bytes < 2 ^ 32) :
    Reaches i s { g with todo := rest, pins := q } (seen ++ more) :=
  h.phase hph ht rfl (List.append_nil _).symm hroom

/-- `FETCHED <- 1` (R203). -/
theorem Reaches.setFetched (h : Reaches i s g seen) (ht : g.todo = .setFetched :: rest) :
    Reaches i s { g with todo := rest, fetched := true } seen := by
  have hgo : Goes s g { g with todo := rest, fetched := true } [] := fun q x a b tr =>
    ⟨q, x, a, b, tr, .silent (unsettled_of_entry rfl ht rfl) (engineStep_setFetched ht) rfl rfl⟩
  have hnext := h.goes hgo [] [] rfl rfl rfl rfl
  rwa [List.append_nil] at hnext

/-- The decoding of the status byte received last (R207). -/
theorem Reaches.decodeStatus {st : Byte} (h : Reaches i s g seen) (ht : g.todo = .decodeStatus :: rest)
    (hst : (dqAnswers s g.bytes)[g.bytes - 1]? = some st) (hwf : Memory.wf s.rxbuf = true) (hroom : g.bytes < 2 ^ 32) :
    Reaches i s { g with todo := rest, record := g.record.withStatus st } seen := by
  have hread : Memory.read (g.state s).rxbuf ((g.state s).rxlen.toNat - 1) = st := by
    show Memory.read (Memory.writeList s.rxbuf 0 (dqAnswers s g.bytes)) ((BitVec.ofNat 32 g.bytes).toNat - 1) = st
    rw [BitVec.toNat_ofNat, Nat.mod_eq_of_lt hroom, Memory.read_writeList hwf, if_pos (Nat.zero_le _), Nat.sub_zero,
      hst]
    rfl
  have hgo : Goes s g { g with todo := rest, record := g.record.withStatus st } [] := fun q x a b tr => by
    have hstep := engineStep_decodeStatus (s := (g.state s).positioned q x a b tr) ht
    subst hread
    exact ⟨q, x, a, b, tr, .silent (unsettled_of_entry rfl ht rfl) hstep rfl rfl⟩
  have hnext := h.goes hgo [] [] rfl rfl rfl rfl
  rwa [List.append_nil] at hnext

end

end Sys2Proof.Machine
end

section
/-! PROOFS. MEASURE_BUSY (O41, O42, O59): the busy window as a part of an operation, and the status fields of the
record, which only a status read writes. -/

namespace Sys2Proof.Machine

/-! ### The busy window (R200) -/

section
variable {i : Instr} {s : State} {g : Progress} {seen : List Seen} {rest : List Micro} {more : List Level}
  {later : List Word64} {ta tc : Word64} {raisedWp : Bool}

/-- MEASURE_BUSY that sees the device busy: the window's record (R200). -/
theorem Reaches.busyWindow {w : BusyWindow} (h : Reaches i s g seen)
    (ht : g.todo = measureBusySteps ta tc raisedWp ++ rest) (hrec : g.record = .zero) (hrb : g.rb = w.rb ++ more)
    (hclk : g.clk = w.clk ++ later) (hrise : risingFrom g.last w.clk = true)
    (hin : w.within (orDefault ta tAssertDefault) (orDefault tc tCompleteDefault) = true) :
    Reaches i s
      { g with
        todo := rest, rb := more, rbN := g.rbN + w.rb.length, clk := later, clkN := g.clkN + w.clk.length,
        last := w.stop, record := w.record }
      (seen ++ w.seen) := by
  refine h.goes (fun q x a b tr => ?_) w.rb w.clk hrb rfl hclk rfl
  obtain ⟨q', tr', hrun⟩ := Run.busyWindow w ta tc raisedWp (s := (g.state s).positioned q x a b tr) rfl ht hrec hrb
    hclk hrise hin
  refine ⟨q', x, w.origin, w.start, tr', ?_⟩
  convert hrun using 1
  simp [Progress.state, State.positioned, State.accept, Nat.add_assoc]

/-- MEASURE_BUSY that sees no fall: WP low again if it was raised, and the end (R200, R206 (b)). -/
theorem Reaches.neverBusy {t0 last : Word64} {ts : List Word64} (h : Reaches i s g seen)
    (ht : g.todo = measureBusySteps ta tc raisedWp ++ rest) (hrb : g.rb = List.replicate (ts.length + 1) true ++ more)
    (hclk : g.clk = t0 :: (ts ++ last :: later)) (hrise : risingFrom g.last (t0 :: (ts ++ [last])) = true)
    (hin : allWithin t0 (orDefault ta tAssertDefault) ts = true)
    (hlate : (orDefault ta tAssertDefault).toNat ≤ last.toNat - t0.toNat) :
    Reaches i s
      { g with
        todo := lowerWp raisedWp ++ [.done resOk], rb := more, rbN := g.rbN + (ts.length + 1), clk := later,
        clkN := g.clkN + (ts.length + 2), last := last }
      (seen ++ ([.clk t0] ++ seenRounds true (ts ++ [last]))) := by
  refine h.goes (fun q x a b tr => ?_) (List.replicate (ts.length + 1) true) (t0 :: (ts ++ [last])) hrb
    (by simp) (by simp [hclk]) (by simp)
  obtain ⟨q', tr', hrun⟩ := Run.neverBusy ta tc raisedWp ts (s := (g.state s).positioned q x a b tr) rfl ht hrb hclk
    hrise hin hlate
  refine ⟨q', x, t0, b, tr', ?_⟩
  convert hrun using 1
  simp [Progress.state, State.positioned, State.accept, Nat.add_assoc]

end

/-- Settles O41: the window is all of MEASURE_BUSY. -/
theorem measureBusyRecordsTheWindow : Obligations.MeasureBusyRecordsTheWindow := by
  intro ta tc s w more later hs hrb hclk hrise hin
  have hreach := (Reaches.start (.measureBusy ta tc) s).busyWindow rfl rfl hrb hclk hrise hin
  obtain ⟨t, ht, hend⟩ := hreach.ends rfl hs rfl
  have hclocked := hend.clocked
  simp only [Progress.start, Nat.zero_add] at hclocked
  exact ⟨t, ht, hend.ended, hend.pins, hend.shown, hend.record, hend.fetched, hend.nothingReceived rfl, hclocked⟩

/-- Settles O42: phase A ends the operation at its bound. -/
theorem measureBusyNeverSeen : Obligations.MeasureBusyNeverSeen := by
  intro ta tc s t0 last ts more later hs hrb hclk hrise hin hlate
  have hreach := (Reaches.start (.measureBusy ta tc) s).neverBusy rfl hrb hclk hrise hin hlate
  obtain ⟨t, ht, hend⟩ := hreach.ends rfl hs rfl
  have hclocked := hend.clocked
  simp only [Progress.start, Nat.zero_add] at hclocked
  exact ⟨t, ht, hend.ended, hend.pins, hend.shown, ⟨hend.record, hend.fetched⟩, hend.nothingReceived rfl, hclocked⟩

/-! ### The status fields of the record (O59) -/

/-- The record holds no status, and no step left decodes one (R201, R207). -/
structure NoStatus (t : State) : Prop where
  notReady : t.record.readyFlag = false
  notPassed : t.record.passFlag = false
  left : .decodeStatus ∉ t.todo

/-- Where a loop goes on, or ends the operation, no status is decoded that was not to be decoded before. -/
theorem Continues.decodeStatus_not_mem {m : Micro} {rest td : List Micro} (h : Continues m rest td)
    (hm : .decodeStatus ∉ m :: rest) : .decodeStatus ∉ td := by
  cases h with
  | on => exact fun hin => hm (.tail _ hin)
  | again | toClock | round => simpa using hm
  | early k rest code => cases k.raisedWp <;> simp [lowerWp]

/-- The bound of a loop changes `timed_out` of the record and nothing else of it (R200). -/
theorem pollClock_status (k : Poll) (s : State) :
    (pollClock k s).record.readyFlag = s.record.readyFlag ∧ (pollClock k s).record.passFlag = s.record.passFlag := by
  rcases pollClock_cases k s with ⟨-, h⟩ | ⟨-, h⟩ <;> rw [h]
  · rcases Poll.onExpiry_cases k s.readClk with ⟨raisedWp, code, hk, -⟩ | hk | hk <;> rw [hk] <;> exact ⟨rfl, rfl⟩
  · exact ⟨rfl, rfl⟩

theorem pollSample_record (k : Poll) (s : State) : (pollSample k s).record = s.record := by
  obtain ⟨td, q, -, h⟩ := pollSample_continues k s
  rw [h]; rfl

/-- Only the decoding of a status byte writes the status fields (R207). -/
theorem engineStep_status {s t : State} (hs : .decodeStatus ∉ s.todo) (h : engineStep s = .next t) :
    t.record.readyFlag = s.record.readyFlag ∧ t.record.passFlag = s.record.passFlag := by
  rcases engineStep_cases h with ⟨-, rfl⟩ | ⟨m, rest, htodo, hm⟩
  · exact ⟨rfl, rfl⟩
  rcases hm with ⟨e, -, rfl⟩ | ⟨-, -, rfl⟩ | ⟨-, rfl⟩ | ⟨k, -, rfl⟩ | ⟨k, -, rfl⟩ | ⟨-, rfl⟩ | ⟨-, rfl⟩ | ⟨k, -, rfl⟩ |
    ⟨-, rfl⟩ | ⟨-, rfl⟩ | ⟨rfl, -⟩ | ⟨code, -, rfl⟩
  · exact ⟨rfl, rfl⟩
  · exact ⟨rfl, rfl⟩
  · exact ⟨rfl, rfl⟩
  · rw [pollSample_record]; exact ⟨rfl, rfl⟩
  · exact pollClock_status k { s with todo := rest }
  · exact ⟨rfl, rfl⟩
  · exact ⟨rfl, rfl⟩
  · exact ⟨rfl, rfl⟩
  · exact ⟨rfl, rfl⟩
  · exact ⟨rfl, rfl⟩
  · simp [htodo] at hs
  · exact ⟨rfl, rfl⟩

theorem NoStatus.engineStep {s t : State} (hs : NoStatus s) (h : engineStep s = .next t) : NoStatus t := by
  obtain ⟨hready, hpass, hleft⟩ := hs
  obtain ⟨hready', hpass'⟩ := engineStep_status hleft h
  refine ⟨hready'.trans hready, hpass'.trans hpass, ?_⟩
  cases engineStep_effect h with
  | ends code hm ht => subst ht; exact List.not_mem_nil
  | drives m rest e hm he ht => subst ht; rw [hm] at hleft; exact fun hin => hleft (.tail _ hin)
  | samplesDq rest hm ht => subst ht; rw [hm] at hleft; exact fun hin => hleft (.tail _ hin)
  | samplesRb k rest td q hm hc ht => subst ht; rw [hm] at hleft; exact hc.decodeStatus_not_mem hleft
  | readsClock m rest td q r a b hm hclk hc ht => subst ht; rw [hm] at hleft; exact hc.decodeStatus_not_mem hleft
  | assigns m rest x r f hm hassign ht => subst ht; rw [hm] at hleft; exact fun hin => hleft (.tail _ hin)

theorem NoStatus.not_succeeded {t : State} (h : NoStatus t) : t.record.succeeded = false := by
  simp [TimingRecord.succeeded, h.notReady]

/-- Settles O59: MEASURE_BUSY starts with a zero record and no status to decode, and engine steps keep that. -/
theorem succeededPredicate : Obligations.SucceededPredicate := by
  refine ⟨fun r => ?_, fun ta tc s t hr h => ?_, fun s t hr hready hpass hleft h => ?_⟩
  · simp [TimingRecord.succeeded, and_assoc]
  · rw [exec_eq_request, request_accept hr rfl] at h
    have hstart : NoStatus (s.accept (measureBusySteps ta tc false ++ [.done resOk])) :=
      ⟨rfl, rfl, by simp [measureBusySteps]⟩
    have hkept : NoStatus t := drive_induction (fun hp _ => hp.engineStep) hstart h
    exact ⟨hkept.not_succeeded, hkept.notReady, hkept.notPassed, hkept.left⟩
  · have hkept : NoStatus t := resume_induction (fun hp _ => hp.engineStep) ⟨hready, hpass, hleft⟩ hr h
    exact ⟨hkept.not_succeeded, hkept.notReady, hkept.notPassed, hkept.left⟩

end Sys2Proof.Machine
end

section
/-! PROOFS. The timed operations (O43 to O47): prologue, command sequence and busy window as parts that all three share,
then the two early paths (R206) and the normal end (R207). -/

namespace Sys2Proof.Machine

/-! ### WP around a timed operation (R202, R207) -/

/-- The pins after a write of WP by an operation, if it writes WP. -/
def Pins.withWp (writes : Bool) (v : Level) (p : Pins) : Pins := if writes then { p with wp := v } else p

/-- What is seen of that write. -/
def seenWp (writes : Bool) (v : Level) : List Seen := if writes then [.wp v] else []

/-- WP is not part of the idle state (R30, C8). -/
theorem Pins.withWp_isIdle {p : Pins} (hp : p.isIdle = true) (writes : Bool) (v : Level) :
    (p.withWp writes v).isIdle = true := by
  cases writes <;> exact hp

/-- A burst moves the strobe latches and WP stays, so both writes of WP can be put after it. -/
theorem Pins.withWp_afterDataIn (p : Pins) (mode : Mode) :
    ((p.withWp true true).afterDataIn mode).withWp true false = { p.afterDataIn mode with wp := false } := by
  cases mode <;> rfl

theorem Phase.wp (tx : Memory) (p : Pins) (writes : Bool) (v : Level) :
    Phase tx p (p.withWp writes v) (if writes then [.w .wp v] else []) (seenWp writes v) [] [] := by
  cases writes with
  | false => exact .nil tx p
  | true => exact ⟨[.w .wp v], .event rfl (.nil _), rfl, rfl, rfl, rfl⟩

/-! ### The guard of the prologue (R202) -/

section
variable {i : Instr} {s : State} {g : Progress} {seen : List Seen} {rest : List Micro} {more : List Level}
  {later : List Word64} {raisedWp : Bool} {t0 : Word64} {ts : List Word64}

/-- The guard wait finds the device ready. -/
theorem Reaches.guardReady (h : Reaches i s g seen) (ht : g.todo = boundedWaitSteps (.guardReady raisedWp) ++ rest)
    (hrb : g.rb = readyAfter ts.length ++ more) (hclk : g.clk = t0 :: ts ++ later)
    (hrise : risingFrom g.last (t0 :: ts) = true) (hin : allWithin t0 tGuard ts = true) :
    Reaches i s
      { g with
        todo := rest, rb := more, rbN := g.rbN + (ts.length + 1), clk := later, clkN := g.clkN + (ts.length + 1),
        last := lastRead t0 ts }
      (seen ++ seenBoundedWait t0 ts) := by
  refine h.goes (fun q x a b tr => ?_) (readyAfter ts.length) (t0 :: ts) hrb (by simp) hclk rfl
  have hscript : g.rb = List.replicate ts.length false ++ true :: more := by
    rw [hrb, readyAfter, List.append_assoc]; rfl
  obtain ⟨q', tr', hrun⟩ := Run.boundedReady (.guardReady raisedWp) rfl rfl (fun _ => rfl) ts
    (s := (g.state s).positioned q x a b tr) rfl ht hscript hclk hrise hin
  refine ⟨q', x, t0, b, tr', ?_⟩
  convert hrun using 1
  · simp [Progress.state, State.positioned, State.accept, Nat.add_assoc]
  · rfl

/-- The guard wait hits its bound: WP low again if it was raised, and the end with code 2 (R206 (a), R232). -/
theorem Reaches.guardExpires {last : Word64} (h : Reaches i s g seen)
    (ht : g.todo = boundedWaitSteps (.guardReady raisedWp) ++ rest)
    (hrb : g.rb = List.replicate (ts.length + 1) false ++ more) (hclk : g.clk = t0 :: (ts ++ last :: later))
    (hrise : risingFrom g.last (t0 :: (ts ++ [last])) = true) (hin : allWithin t0 tGuard ts = true)
    (hlate : tGuard.toNat ≤ last.toNat - t0.toNat) :
    Reaches i s
      { g with
        todo := lowerWp raisedWp ++ [.done resDeviceNotResponding], rb := more, rbN := g.rbN + (ts.length + 1),
        clk := later, clkN := g.clkN + (ts.length + 2), last := last }
      (seen ++ ([.clk t0] ++ seenRounds false (ts ++ [last]))) := by
  refine h.goes (fun q x a b tr => ?_) (List.replicate (ts.length + 1) false) (t0 :: (ts ++ [last])) hrb
    (by simp) (by simp [hclk]) (by simp)
  obtain ⟨q', tr', hrun⟩ := Run.boundedExpire (.guardReady raisedWp) rfl rfl (fun _ => rfl) ts
    (s := (g.state s).positioned q x a b tr) rfl ht hrb hclk hrise hin hlate
  refine ⟨q', x, t0, b, tr', ?_⟩
  convert hrun using 1
  simp [Poll.onExpiry, State.leaveEarly, Progress.state, State.positioned, State.accept, Nat.add_assoc]

/-- The start of a timed operation: WP raised where it writes WP, the guard wait still to come. -/
theorem Reaches.prologue {wp : Bool} (hsteps : stepsOf i s = prologueSteps wp ++ rest) :
    Reaches i s
      { Progress.start s (boundedWaitSteps (.guardReady wp) ++ (rest ++ [.done resOk])) with
        pins := s.pins.withWp wp true }
      (seenWp wp true) :=
  (Reaches.start i s).line (.wp _ _ wp true)
    (by simp [Progress.start, hsteps, prologueSteps]) (by simp [Progress.start])

end

/-! ### From the prologue to the busy window (R202 to R205) -/

section
variable {i : Instr} {s : State} {g : Progress} {seen seenGo : List Seen} {go rest : List Micro} {q : Pins}
  {more : List Level} {later : List Word64} {wp : Bool} {ta tc t0 : Word64} {ts : List Word64}

/-- Guard and command sequence up to the go byte: the clock read of MEASURE_BUSY is next. -/
theorem Reaches.commanded (hsteps : stepsOf i s = prologueSteps wp ++ (go ++ rest))
    (hgo : Phase s.opnd.txbuf (s.pins.withWp wp true) q go seenGo [] [])
    (hrb : s.env.rb = readyAfter ts.length ++ more) (hclk : s.env.clk = t0 :: ts ++ later)
    (hrise : risingFrom s.clkLast (t0 :: ts) = true) (hin : allWithin t0 tGuard ts = true) :
    Reaches i s
      { Progress.start s (rest ++ [.done resOk]) with
        pins := q, rb := more, rbN := ts.length + 1, clk := later, clkN := ts.length + 1, last := lastRead t0 ts }
      (seenWp wp true ++ seenBoundedWait t0 ts ++ seenGo) := by
  have hguard := (Reaches.prologue hsteps).guardReady rfl hrb hclk hrise hin
  have hreach := hguard.line (rest := rest ++ [.done resOk]) hgo (List.append_assoc ..) (by simp [Progress.start])
  simpa only [Progress.start, Nat.zero_add] using hreach

/-- The busy window after the go byte. -/
theorem Reaches.measured {w : BusyWindow}
    (hsteps : stepsOf i s = prologueSteps wp ++ (go ++ (measureBusySteps ta tc wp ++ rest)))
    (hgo : Phase s.opnd.txbuf (s.pins.withWp wp true) q go seenGo [] [])
    (hrb : s.env.rb = readyAfter ts.length ++ (w.rb ++ more)) (hclk : s.env.clk = t0 :: ts ++ (w.clk ++ later))
    (hrise : risingFrom s.clkLast (t0 :: ts ++ w.clk) = true) (hin : allWithin t0 tGuard ts = true)
    (hwindow : w.within (orDefault ta tAssertDefault) (orDefault tc tCompleteDefault) = true) :
    Reaches i s
      { Progress.start s (rest ++ [.done resOk]) with
        pins := q, rb := more, rbN := ts.length + 1 + w.rb.length, clk := later,
        clkN := ts.length + 1 + w.clk.length, last := w.stop, record := w.record }
      (seenWp wp true ++ seenBoundedWait t0 ts ++ seenGo ++ w.seen) := by
  rw [risingFrom_append, Bool.and_eq_true] at hrise
  obtain ⟨hguard, hwindowRise⟩ := hrise
  exact (Reaches.commanded hsteps hgo hrb hclk hguard hin).busyWindow (List.append_assoc ..) rfl rfl rfl hwindowRise
    hwindow

/-! ### The two early paths (R206) -/

/-- What both early paths leave once WP is low again: no record, nothing received. -/
theorem Reaches.endsEarly {code : Byte} (h : Reaches i s g seen) (ht : g.todo = lowerWp wp ++ [.done code])
    (hbytes : g.bytes = 0) (hrecord : g.record = .zero) (hfetched : g.fetched = false) (hs : s.Fresh)
    (hi : i.wellFormed s.mode s.maxBurst = true) :
    ∃ t, exec i s = .next t ∧ Ended s t code ∧ NoRecord t ∧ NothingReceived s t ∧ t.pins = g.pins.withWp wp false ∧
      Shown s t (seen ++ seenWp wp false) ∧ Clocked s t g.rbN 0 g.clkN g.last := by
  have hlow := h.line (.wp _ _ wp false) ht (by simp [hbytes])
  obtain ⟨t, hexec, hend⟩ := hlow.ends rfl hs hi
  have hclocked := hend.clocked
  simp only [hbytes] at hclocked
  exact ⟨t, hexec, hend.ended, ⟨hend.record.trans hrecord, hend.fetched.trans hfetched⟩, hend.nothingReceived hbytes,
    hend.pins, hend.shown, hclocked⟩

/-- Path (b): no sample after the go byte is 0. -/
theorem exec_neverBusy {u0 last : Word64} {us : List Word64} (hs : s.Fresh) (hi : i.wellFormed s.mode s.maxBurst = true)
    (hsteps : stepsOf i s = prologueSteps wp ++ (go ++ (measureBusySteps ta tc wp ++ rest)))
    (hgo : Phase s.opnd.txbuf (s.pins.withWp wp true) q go seenGo [] [])
    (hrb : s.env.rb = readyAfter ts.length ++ (List.replicate (us.length + 1) true ++ more))
    (hclk : s.env.clk = t0 :: ts ++ (u0 :: (us ++ last :: later)))
    (hrise : risingFrom s.clkLast (t0 :: ts ++ (u0 :: (us ++ [last]))) = true) (hin : allWithin t0 tGuard ts = true)
    (hbusy : allWithin u0 (orDefault ta tAssertDefault) us = true)
    (hlate : (orDefault ta tAssertDefault).toNat ≤ last.toNat - u0.toNat) :
    ∃ t, exec i s = .next t ∧ Ended s t 0 ∧ NoRecord t ∧ NothingReceived s t ∧ t.pins = q.withWp wp false ∧
      Shown s t (seenWp wp true ++ seenBoundedWait t0 ts ++ seenGo ++ ([.clk u0] ++ seenRounds true (us ++ [last])) ++
        seenWp wp false) ∧
      Clocked s t (ts.length + 1 + (us.length + 1)) 0 (ts.length + 1 + (us.length + 2)) last := by
  rw [risingFrom_append, Bool.and_eq_true] at hrise
  obtain ⟨hguard, hwindowRise⟩ := hrise
  have hreach := (Reaches.commanded hsteps hgo hrb hclk hguard hin).neverBusy (List.append_assoc ..) rfl rfl
    hwindowRise hbusy hlate
  exact hreach.endsEarly rfl rfl rfl rfl hs hi

end

/-! ### The steps of the three operations (R203 to R205) -/

theorem stepsOf_tRead (a : AddrArray) (n : BitVec 4) (c : Word32) (pre00 fetch : Bool) (ta tc : Word64) (s : State) :
    stepsOf (.tRead a n c pre00 fetch ta tc) s =
      prologueSteps false ++ (readGoSteps s.idleOrder pre00 (addrBytes a n) ++ (measureBusySteps ta tc false ++
        ((if fetch then dataOutSteps s.idleOrder s.timing s.mode c.toNat ++ [.setFetched] else []) ++
          epilogueSteps s.idleOrder s.timing s.mode false))) := by
  simp only [stepsOf, List.append_assoc]

theorem stepsOf_tProgram (a : AddrArray) (n : BitVec 4) (c : Word32) (k : Byte) (ta tc : Word64) (s : State) :
    stepsOf (.tProgram a n c k ta tc) s =
      prologueSteps true ++ (programGoSteps s.idleOrder s.timing s.mode (addrBytes a n) c.toNat k ++
        (measureBusySteps ta tc true ++ epilogueSteps s.idleOrder s.timing s.mode true)) := by
  simp only [stepsOf, List.append_assoc]

theorem stepsOf_tErase (a : AddrArray) (n : BitVec 4) (ta tc : Word64) (s : State) :
    stepsOf (.tErase a n ta tc) s =
      prologueSteps true ++ (eraseGoSteps s.idleOrder (addrBytes a n) ++
        (measureBusySteps ta tc true ++ epilogueSteps s.idleOrder s.timing s.mode true)) := by
  simp only [stepsOf, List.append_assoc]

/-- Every timed operation begins with the prologue, which raises WP if the operation writes WP (R202). -/
theorem stepsOf_timed {i : Instr} (hi : i.family = .timed) (s : State) :
    ∃ rest, stepsOf i s = prologueSteps (mayWriteWp i) ++ rest := by
  cases i with
  | tRead a n c pre00 fetch ta tc => exact ⟨_, stepsOf_tRead a n c pre00 fetch ta tc s⟩
  | tProgram a n c k ta tc => exact ⟨_, stepsOf_tProgram a n c k ta tc s⟩
  | tErase a n ta tc => exact ⟨_, stepsOf_tErase a n ta tc s⟩
  | _ => cases hi

/-! ### Early ends of the three operations (R206) -/

/-- Settles O46: path (a) leaves the guard before any command. -/
theorem guardFailureRaisesCodeTwo : Obligations.GuardFailureRaisesCodeTwo := by
  intro i s t0 last ts more later hs htimed hi hrb hclk hrise hin hlate
  obtain ⟨rest, hsteps⟩ := stepsOf_timed htimed s
  have hreach := (Reaches.prologue hsteps).guardExpires rfl hrb hclk hrise hin hlate
  obtain ⟨t, ht, hended, hrecord, hnone, hpins, hshown, hclocked⟩ := hreach.endsEarly rfl rfl rfl rfl hs hi
  simp only [Progress.start, Nat.zero_add] at hclocked
  refine ⟨t, ht, hended, hrecord, hnone, hclocked, ?writesWp, ?sparesWp⟩
  all_goals
    intro hwp
    rw [hwp] at hpins hshown
    exact ⟨hpins, by simpa [seenWp] using hshown⟩

/-- The operands of T_READ are inside their ranges (R93). -/
theorem tRead_wellFormed {mode : Mode} {maxBurst : Nat} {n : BitVec 4} {c : Word32} (hn : n.toNat ≤ 8)
    (hc : c.toNat ≤ maxBurst) (a : AddrArray) (pre00 fetch : Bool) (ta tc : Word64) :
    (Instr.tRead a n c pre00 fetch ta tc).wellFormed mode maxBurst = true := by
  simp [Instr.wellFormed, WellFormed.alen, WellFormed.count, hn, hc]

/-- Settles O47: path (b) leaves each operation after its go byte. -/
theorem busyNeverSeenEndsEarly : Obligations.BusyNeverSeenEndsEarly := by
  intro a n c confirm pre00 fetch ta tc s t0 ts u0 last us more later hs hn hrb hclk hrise hin hbusy hlate
  have ⟨_, hidle, _, hio, _⟩ := hs
  have hraised := Pins.withWp_isIdle hidle true true
  refine ⟨fun hc => ?read, fun hc heven => ?program, ?erase⟩
  case read =>
    have hrun := exec_neverBusy (wp := false) hs (tRead_wellFormed hn hc a pre00 fetch ta tc) (stepsOf_tRead ..)
      (.readGo hio hidle _ pre00 (addrBytes a n)) hrb hclk hrise hin hbusy hlate
    simpa [seenWp, seenReadGo, addrBytes, Pins.withWp] using hrun
  case program =>
    have hrun := exec_neverBusy (i := .tProgram a n c confirm ta tc) hs (pageProgram_wellFormed hn hc heven a confirm)
      (stepsOf_tProgram ..) (.programGo hio hraised _ s.timing (addrBytes a n) heven confirm) hrb hclk hrise hin hbusy
      hlate
    rw [Pins.withWp_afterDataIn] at hrun
    simpa [seenWp, seenProgramGo, addrBytes] using hrun
  case erase =>
    have hrun := exec_neverBusy (i := .tErase a n ta tc) hs (decide_eq_true hn) (stepsOf_tErase ..)
      (.eraseGo hio hraised _ (addrBytes a n)) hrb hclk hrise hin hbusy hlate
    simpa [seenWp, seenEraseGo, addrBytes, Pins.withWp] using hrun

/-! ### The fetch and the epilogue (R203, R207) -/

/-- The status byte: the DQ answer after the `n` bytes received before it (R207). -/
def statusAnswer (s : State) (n : Nat) : Byte := (dqAnswers s (n + 1)).getLastD 0

theorem dqAnswers_statusAnswer (s : State) (n : Nat) : dqAnswers s (n + 1) = dqAnswers s n ++ [statusAnswer s n] := by
  have hlast : ∀ u : State, ∃ b, dqAnswers u 1 = [b] := fun u => List.length_eq_one_iff.1 (dqAnswers_length u 1)
  rw [statusAnswer, dqAnswers_add]
  obtain ⟨b, hb⟩ := hlast { s with env := { s.env with dq := s.env.dq.drop n, dqN := s.env.dqN + n } }
  rw [hb]
  simp

section
variable {i : Instr} {s : State} {g : Progress} {seen : List Seen} {rest : List Micro} {more : List Level}

/-- The optional fetch of T_READ, the first bytes the operation receives. -/
theorem Reaches.fetch {fetch : Bool} {c : Word32} {l : Nat} (h : Reaches i s g seen)
    (ht : g.todo = (if fetch then dataOutSteps s.idleOrder s.timing s.mode c.toNat ++ [.setFetched] else []) ++ rest)
    (hbytes : g.bytes = 0) (hfetched : g.fetched = false) (hio : s.idleOrder.complete = true)
    (hidle : g.pins.isIdle = true) (hrb : g.rb = (if fetch then readyAfter l else []) ++ more) :
    Reaches i s
      { g with
        todo := rest, rb := more, rbN := g.rbN + (if fetch then l + 1 else 0), bytes := if fetch then c.toNat else 0,
        fetched := fetch }
      (seen ++ if fetch then seenRead s.timing l (dqAnswers s c.toNat) else []) := by
  cases fetch with
  | false =>
    simp only [Bool.false_eq_true, if_false, List.append_nil, List.nil_append, Nat.add_zero] at ht hrb ⊢
    have hstay : ({ g with todo := rest, rb := more, bytes := 0, fetched := false } : Progress) = g := by
      rw [← ht, ← hrb, ← hbytes, ← hfetched]
    exact hstay ▸ h
  | true =>
    have hread := Phase.read hio hidle s.opnd.txbuf s.timing s.mode l (dqAnswers_length s c.toNat)
    have hnext := h.phase (rest := .setFetched :: rest) hread (by rw [ht]; simp) hrb
      (by rw [hbytes, dqAnswers_length, Nat.zero_add]; rfl)
      (by rw [hbytes, dqAnswers_length, Nat.zero_add]; exact c.isLt)
    rw [hbytes, dqAnswers_length, readyAfter_length, Nat.zero_add] at hnext
    exact hnext.setFetched rfl

/-- The epilogue: the status read, its decoding, WP low again if it was raised. -/
theorem Reaches.epilogue {wp : Bool} {k : Nat} (h : Reaches i s g seen)
    (ht : g.todo = epilogueSteps s.idleOrder s.timing s.mode wp ++ rest) (hs : s.Fresh) (hidle : g.pins.isIdle = true)
    (hrb : g.rb = readyAfter k ++ more) (hroom : g.bytes + 1 < 2 ^ 32) :
    Reaches i s
      { g with
        todo := rest, pins := g.pins.withWp wp false, rb := more, rbN := g.rbN + (k + 1), bytes := g.bytes + 1,
        record := g.record.withStatus (statusAnswer s g.bytes) }
      (seen ++ (seenCmd 0x70 ++ seenDly s.timing .tWHR ++ seenRead s.timing k [statusAnswer s g.bytes]) ++
        seenWp wp false) := by
  obtain ⟨-, -, hwf, hio, -⟩ := hs
  have hstatus := h.phase (rest := .decodeStatus :: (lowerWp wp ++ rest))
    (Phase.status hio hidle s.opnd.txbuf s.timing s.mode k (bs := [statusAnswer s g.bytes]) rfl)
    (by rw [ht]; simp [epilogueSteps]) hrb (dqAnswers_statusAnswer s g.bytes) hroom
  rw [readyAfter_length] at hstatus
  have hlast : (dqAnswers s (g.bytes + 1))[g.bytes + 1 - 1]? = some (statusAnswer s g.bytes) := by
    rw [dqAnswers_statusAnswer, Nat.add_sub_cancel, List.getElem?_append_right (by simp)]; simp
  exact (hstatus.decodeStatus rfl hlast hwf hroom).line (.wp _ _ wp false) rfl hroom

end

/-! ### T_READ, T_PROGRAM, T_ERASE (R203 to R205) -/

/-- Settles O43: the parts of T_READ, with the fetch between busy window and status read. -/
theorem timedReadMeasuresFetchesAndReadsStatus : Obligations.TimedReadMeasuresFetchesAndReadsStatus := by
  intro a n c pre00 fetch ta tc s t0 ts w l k more later hs hn hc hroom hrb hclk hrise hin hwindow
  have ⟨_, hidle, hwf, hio, _⟩ := hs
  have hcount : (if fetch then c.toNat else 0) + 1 < 2 ^ 32 := by split <;> omega
  have hmeasured := Reaches.measured (i := .tRead a n c pre00 fetch ta tc) (wp := false)
    (stepsOf_tRead ..) (.readGo hio hidle _ pre00 (addrBytes a n)) hrb hclk hrise hin hwindow
  have hfetched := hmeasured.fetch (List.append_assoc ..) rfl rfl hio hidle rfl
  have hreach := hfetched.epilogue rfl hs hidle rfl hcount
  obtain ⟨t, ht, hend⟩ := hreach.ends rfl hs (tRead_wellFormed hn hc a pre00 fetch ta tc)
  refine ⟨t, ht, hend.ended, hend.pins, ?_, hend.received hwf hcount, hend.record, hend.fetched, ?_⟩
  · simpa [seenWp, seenReadGo, addrBytes, statusAnswer] using hend.shown
  · rw [dqAnswers_length]; exact hend.clocked

/-- T_PROGRAM and T_ERASE on the normal path: `go` is the command sequence up to the go byte. -/
theorem exec_timedWrite {i : Instr} {s : State} {go : List Micro} {seenGo : List Seen} {q : Pins} {ta tc t0 : Word64}
    {ts : List Word64} {w : BusyWindow} {k : Nat} {more : List Level} {later : List Word64} (hs : s.Fresh)
    (hi : i.wellFormed s.mode s.maxBurst = true)
    (hsteps : stepsOf i s = prologueSteps true ++ (go ++ (measureBusySteps ta tc true ++
      epilogueSteps s.idleOrder s.timing s.mode true)))
    (hgo : Phase s.opnd.txbuf (s.pins.withWp true true) q go seenGo [] []) (hq : q.isIdle = true)
    (hrb : s.env.rb = readyAfter ts.length ++ (w.rb ++ (readyAfter k ++ more)))
    (hclk : s.env.clk = t0 :: ts ++ (w.clk ++ later)) (hrise : risingFrom s.clkLast (t0 :: ts ++ w.clk) = true)
    (hin : allWithin t0 tGuard ts = true)
    (hwindow : w.within (orDefault ta tAssertDefault) (orDefault tc tCompleteDefault) = true) :
    ∃ t, exec i s = .next t ∧ Ended s t 0 ∧ t.pins = q.withWp true false ∧
      Shown s t ([.wp true] ++ seenBoundedWait t0 ts ++ seenGo ++ w.seen ++
        (seenCmd 0x70 ++ seenDly s.timing .tWHR ++ seenRead s.timing k [statusAnswer s 0]) ++ [.wp false]) ∧
      Received s t (dqAnswers s 1) ∧ t.record = w.record.withStatus (statusAnswer s 0) ∧ t.fetched = false ∧
      Clocked s t (ts.length + 1 + w.rb.length + (k + 1)) (dqAnswers s 1).length (ts.length + 1 + w.clk.length)
        w.stop := by
  have ⟨_, _, hwf, _, _⟩ := hs
  have hone : 0 + 1 < 2 ^ 32 := by decide
  have hreach := (Reaches.measured hsteps hgo hrb hclk hrise hin hwindow).epilogue rfl hs hq rfl hone
  obtain ⟨t, ht, hend⟩ := hreach.ends rfl hs hi
  refine ⟨t, ht, hend.ended, hend.pins, hend.shown, hend.received hwf hone, hend.record, hend.fetched, ?_⟩
  rw [dqAnswers_length]; exact hend.clocked

/-- Settles O44: the command sequence of a program between prologue and busy window. -/
theorem timedProgramMeasuresAndReadsStatus : Obligations.TimedProgramMeasuresAndReadsStatus := by
  intro a n c confirm ta tc s t0 ts w k more later hs hn hc heven hrb hclk hrise hin hwindow
  have ⟨_, hidle, _, hio, _⟩ := hs
  have hraised := Pins.withWp_isIdle hidle true true
  obtain ⟨t, ht, hended, hpins, hshown, hkept⟩ :=
    exec_timedWrite (i := .tProgram a n c confirm ta tc) hs (pageProgram_wellFormed hn hc heven a confirm)
      (stepsOf_tProgram ..) (.programGo hio hraised _ s.timing (addrBytes a n) heven confirm)
      (Pins.afterDataIn_isIdle hraised s.mode) hrb hclk hrise hin hwindow
  rw [Pins.withWp_afterDataIn] at hpins
  exact ⟨t, ht, hended, hpins, by simpa [seenProgramGo, addrBytes, statusAnswer] using hshown, hkept⟩

/-- Settles O45: the command sequence of an erase between prologue and busy window. -/
theorem timedEraseMeasuresAndReadsStatus : Obligations.TimedEraseMeasuresAndReadsStatus := by
  intro a n ta tc s t0 ts w k more later hs hn hrb hclk hrise hin hwindow
  have ⟨_, hidle, _, hio, _⟩ := hs
  have hraised := Pins.withWp_isIdle hidle true true
  obtain ⟨t, ht, hended, hpins, hshown, hkept⟩ :=
    exec_timedWrite (i := .tErase a n ta tc) hs (decide_eq_true hn)
      (stepsOf_tErase ..) (.eraseGo hio hraised _ (addrBytes a n)) hraised hrb hclk hrise hin
      hwindow
  exact ⟨t, ht, hended, hpins, by simpa [seenEraseGo, addrBytes, statusAnswer] using hshown, hkept⟩

end Sys2Proof.Machine
end

section
/-! PROOFS. Where WP ends (O54): T_PROGRAM and T_ERASE leave their guard and their busy window with WP low again, and
every step of the engine keeps that the steps left end with WP low. -/

namespace Sys2Proof.Machine

/-! ### What an engine step keeps of the end of WP (R211) -/

/-- WP is low where the operation is over, and its steps left end with WP low where it goes on. -/
structure WpEndsLow (t : State) : Prop where
  exited : t.run = .ready → t.pins.wp = false
  left : t.run = .running → protectedAtExit t.pins.wp t.todo = true

theorem protectedAtExit_event {tx : Memory} {p : Pins} {m : Micro} {e : Event} {rest : List Micro}
    (he : m.event tx p = some e) (h : protectedAtExit p.wp (m :: rest) = true) :
    protectedAtExit (e.onPins p).wp rest = true := by
  cases m with
  | w q v | wInv q => cases he; cases q <;> exact h
  | dqClr | dqSet | txClr | txSet | dirDQ | dirStrobe | dly | spin => cases he; exact h
  | _ => cases he

/-- An entry without an event that does not end the operation leaves WP to the next one. -/
theorem protectedAtExit_noEvent {tx : Memory} {p : Pins} {m : Micro} {rest : List Micro} {wp : Level}
    (he : m.event tx p = none) (hd : ∀ code, m ≠ .done code) (h : protectedAtExit wp (m :: rest) = true) :
    protectedAtExit wp rest = true := by
  cases m with
  | pollRb | pollClk =>
    simp only [protectedAtExit, Bool.and_eq_true] at h
    exact h.2
  | done code => exact absurd rfl (hd code)
  | sampleDQ | clkStart | clkBusyStart | clkBusyEnd | setIdx | busySeen | setFetched | decodeStatus => exact h
  | _ => cases he

/-- A loop that leaves the operation early lowers WP, or WP is low already (R206, R232). -/
theorem Continues.protectedAtExit {tx : Memory} {p : Pins} {m : Micro} {rest td : List Micro} {wp : Level}
    (h : Continues m rest td) (he : m.event tx p = none) (hd : ∀ code, m ≠ .done code)
    (hm : Machine.protectedAtExit wp (m :: rest) = true) : Machine.protectedAtExit wp td = true := by
  cases h with
  | on => exact protectedAtExit_noEvent he hd hm
  | again | toClock | round => exact hm
  | early k rest code hk =>
    simp only [Machine.protectedAtExit, hk, Bool.and_eq_true, Bool.or_eq_true] at hm
    obtain ⟨hlow, -⟩ := hm
    cases hwp : k.raisedWp with
    | true => rfl
    | false => simpa [hwp, lowerWp, Machine.protectedAtExit] using hlow

theorem WpEndsLow.engineStep {t u : State} (ht : WpEndsLow t) (hr : t.run = .running) (h : engineStep t = .next u) :
    WpEndsLow u := by
  have hleft := ht.left hr
  have running {v : State} (hv : v.run = .running) (hlow : protectedAtExit v.pins.wp v.todo = true) : WpEndsLow v :=
    ⟨fun hready => by simp [hv] at hready, fun _ => hlow⟩
  cases engineStep_effect h with
  | ends code hs hu =>
    subst hu
    refine ⟨fun _ => ?_, nofun⟩
    rcases hs with ⟨hs, -⟩ | ⟨rest, hs⟩ <;> rw [hs] at hleft <;> simpa [protectedAtExit] using hleft
  | drives m rest e hs he hu =>
    rw [hs] at hleft
    subst hu
    exact running hr (protectedAtExit_event he hleft)
  | samplesDq rest hs hu =>
    rw [hs] at hleft
    subst hu
    exact running hr hleft
  | samplesRb k rest td q hs hc hu =>
    rw [hs] at hleft
    subst hu
    exact running hr (hc.protectedAtExit (tx := []) (p := t.pins) rfl (by simp) hleft)
  | readsClock m rest td q r a b hs hm hc hu =>
    rw [hs] at hleft
    subst hu
    exact running hr
      (hc.protectedAtExit (m.event_of_readsClock hm [] t.pins) (by rintro _ rfl; cases hm) hleft)
  | assigns m rest x r f hs hm hu =>
    rw [hs] at hleft
    subst hu
    exact running hr
      (protectedAtExit_noEvent (m.event_of_assigns hm [] t.pins) (by rintro _ rfl; cases hm) hleft)

/-! ### Steps that pass WP on -/

/-- Steps that neither write WP nor can end the operation with WP high. -/
def PassesWp (l : List Micro) : Prop := ∀ wp rest, protectedAtExit wp (l ++ rest) = protectedAtExit wp rest

theorem PassesWp.append {l r : List Micro} (hl : PassesWp l) (hr : PassesWp r) : PassesWp (l ++ r) := fun wp rest => by
  rw [List.append_assoc, hl, hr]

theorem PassesWp.burst {body : Nat → List Micro} (h : ∀ k, PassesWp (body k)) (k n : Nat) :
    PassesWp (burst body k n) := by
  induction n generalizing k with
  | zero => exact fun _ _ => rfl
  | succ n ih => exact (h k).append (ih _)

theorem passesWp_idle (io : IdleOrder) : PassesWp (idleSteps io) := by
  induction io with
  | nil => exact fun _ _ => rfl
  | cons a io ih =>
    have ha : PassesWp a.steps := fun _ _ => by cases a <;> rfl
    exact ha.append ih

theorem passesWp_command (io : IdleOrder) (b : Byte) : PassesWp (commandSteps io b) :=
  PassesWp.append (fun _ _ => rfl) (passesWp_idle io)

theorem passesWp_addressCycles (k : Nat) (bs : List Byte) : PassesWp (addressCycles k bs) := by
  induction bs generalizing k with
  | nil => exact fun _ _ => rfl
  | cons b bs ih => exact PassesWp.append (fun _ _ => rfl) (ih _)

theorem passesWp_address (io : IdleOrder) (bs : List Byte) : PassesWp (addressSteps io bs) :=
  (PassesWp.append (fun _ _ => rfl) (passesWp_addressCycles 0 bs)).append (passesWp_idle io)

theorem passesWp_delay (tm : Timing) (p : TimingParam) : PassesWp (delay tm p) := fun _ _ => rfl

theorem passesWp_dataIn (io : IdleOrder) (mode : Mode) (n : Nat) : PassesWp (dataInSteps io mode n) := by
  cases mode with
  | async =>
    have hburst : PassesWp (burst dataInAsync 0 n) := .burst (fun _ _ _ => rfl) 0 n
    exact (PassesWp.append (fun _ _ => rfl) hburst).append (passesWp_idle io)
  | toggle =>
    have hburst : PassesWp (burst dataInToggle 0 n) := .burst (fun _ _ _ => rfl) 0 n
    exact (PassesWp.append (fun _ _ => rfl) (PassesWp.append (fun _ _ => rfl) hburst)).append (passesWp_idle io)

/-- A read waits without a bound, so it cannot end the operation (R125, R208). -/
theorem passesWp_dataOut (io : IdleOrder) (tm : Timing) (mode : Mode) (n : Nat) :
    PassesWp (dataOutSteps io tm mode n) := by
  have hburst : PassesWp (dataOutBytes mode n) := by
    cases mode with
    | async => exact .burst (fun _ _ _ => rfl) 0 n
    | toggle => exact .burst (fun _ _ _ => rfl) 0 n
  have hhead : PassesWp ([.dirDQ .inp] ++ (waitReadySteps ++ [.dly .tRR tm.tRR, .w .ce false])) := fun _ _ => rfl
  have hend : PassesWp (idleSteps io ++ [.dly .tRHW tm.tRHW]) := (passesWp_idle io).append fun _ _ => rfl
  have h := hhead.append (hburst.append hend)
  rw [dataOutSteps_eq]
  simpa only [List.append_assoc] using h

theorem passesWp_programGo (io : IdleOrder) (tm : Timing) (mode : Mode) (addr : List Byte) (n : Nat) (k : Byte) :
    PassesWp (programGoSteps io tm mode addr n k) :=
  ((((passesWp_command io _).append (passesWp_address io addr)).append (passesWp_delay tm _)).append
    (passesWp_dataIn io mode n)).append (passesWp_command io k)

theorem passesWp_eraseGo (io : IdleOrder) (addr : List Byte) : PassesWp (eraseGoSteps io addr) :=
  ((passesWp_command io _).append (passesWp_address io addr)).append (passesWp_command io _)

theorem passesWp_status (io : IdleOrder) (tm : Timing) (mode : Mode) : PassesWp (statusSteps io tm mode) :=
  ((passesWp_command io _).append (passesWp_delay tm _)).append (passesWp_dataOut io tm mode 1)

/-- The busy window of an operation that raised WP: its early path lowers WP (R206 (b)). -/
theorem passesWp_measureBusy (ta tc : Word64) : PassesWp (measureBusySteps ta tc true) := fun _ _ => rfl

/-! ### T_PROGRAM and T_ERASE (R211) -/

/-- Whatever WP was, the prologue raises it, its early path lowers it (R202, R206 (a)). -/
theorem protectedAtExit_prologue (wp : Level) (rest : List Micro) :
    protectedAtExit wp (prologueSteps true ++ rest) = protectedAtExit true rest := rfl

/-- The epilogue lowers WP after the status read (R207). -/
theorem protectedAtExit_epilogue (io : IdleOrder) (tm : Timing) (mode : Mode) (wp : Level) :
    protectedAtExit wp (epilogueSteps io tm mode true ++ [.done resOk]) = true := by
  rw [epilogueSteps, List.append_assoc, List.append_assoc, passesWp_status]; rfl

/-- Prologue, a command sequence that passes WP on, busy window, epilogue. -/
theorem protectedAtExit_timedWrite (io : IdleOrder) (tm : Timing) (mode : Mode) (ta tc : Word64) (wp : Level)
    {go : List Micro} (hgo : PassesWp go) :
    protectedAtExit wp (prologueSteps true ++ (go ++ (measureBusySteps ta tc true ++ epilogueSteps io tm mode true)) ++
      [.done resOk]) = true := by
  rw [List.append_assoc, protectedAtExit_prologue, List.append_assoc, hgo, List.append_assoc, passesWp_measureBusy,
    protectedAtExit_epilogue]

/-- The timed operations that write WP end with WP low, whatever it was at acceptance. -/
theorem protectedAtExit_stepsOf {i : Instr} (hi : i.family = .timed) (hwp : mayWriteWp i = true) (s : State)
    (wp : Level) : protectedAtExit wp (stepsOf i s ++ [.done resOk]) = true := by
  cases i with
  | tRead => cases hwp
  | tProgram a n c k ta tc =>
    rw [stepsOf_tProgram]
    exact protectedAtExit_timedWrite _ _ _ ta tc wp (passesWp_programGo _ _ _ _ _ _)
  | tErase a n ta tc =>
    rw [stepsOf_tErase]
    exact protectedAtExit_timedWrite _ _ _ ta tc wp (passesWp_eraseGo _ _)
  | _ => cases hi

/-- Settles O54: the steps of both operations end with WP low on every path, and engine steps keep that. -/
theorem timedOperationsLeaveWpLow : Obligations.TimedOperationsLeaveWpLow := by
  refine ⟨fun i s t hr htimed hwp hi h => ?_, fun s t hr hleft h => ?_⟩
  · rw [exec_eq_request, request_accept hr ((checksOf_pass_iff i s).2 hi)] at h
    have hstart : WpEndsLow (s.accept (stepsOf i s ++ [.done resOk])) :=
      ⟨nofun, fun _ => protectedAtExit_stepsOf htimed hwp s s.pins.wp⟩
    have hkept : WpEndsLow t := drive_induction (fun hp hu => hp.engineStep (running_of_unsettled hu)) hstart h
    exact ⟨hkept.exited, hkept.left⟩
  · have hkept : WpEndsLow t := resume_induction WpEndsLow.engineStep
      ⟨fun hready => by simp [hr] at hready, fun _ => hleft⟩ hr h
    exact ⟨hkept.exited, hkept.left⟩

end Sys2Proof.Machine
end

section
/-! PROOFS. Result codes (O60): what each part of an operation adds to the codes it can end with, and that no engine step
adds one. -/

namespace Sys2Proof.Machine

/-! ### Engine steps add no code -/

/-- An entry that is not the end of the operation hides no code of the entries after it. -/
theorem endCodes_subset_cons {m : Micro} {rest : List Micro} (hm : ∀ code, m ≠ .done code) :
    endCodes rest ⊆ endCodes (m :: rest) := by
  cases m with
  | done code => exact absurd rfl (hm code)
  | pollRb | pollClk => exact List.subset_append_right ..
  | _ => exact List.Subset.refl _

@[simp] theorem endCodes_lowerWp (raisedWp : Bool) (rest : List Micro) :
    endCodes (lowerWp raisedWp ++ rest) = endCodes rest := by
  cases raisedWp <;> rfl

/-- Wherever an entry leaves the list, the codes left are among those there were: a loop that leaves early does so with
the code `endCodes` counts for it (R206). -/
theorem Continues.endCodes_subset {m : Micro} {rest td : List Micro} (h : Continues m rest td)
    (hm : ∀ code, m ≠ .done code) : endCodes td ⊆ endCodes (m :: rest) := by
  cases h with
  | on => exact endCodes_subset_cons hm
  | again | toClock | round => exact List.Subset.refl _
  | early k rest code hk => simp [endCodes, hk]

/-- A block that ended with one of these codes, or goes on with `RES` as it was towards one of them. -/
structure EndsAmong (codes : List Byte) (res : Byte) (t : State) : Prop where
  exited : t.run = .ready → t.res ∈ codes
  left : t.run = .running → t.res = res ∧ endCodes t.todo ⊆ codes

/-- The next state is RUNNING, with fewer codes left and `RES` as it was. -/
theorem EndsAmong.on {codes : List Byte} {res : Byte} {t u : State} (ht : EndsAmong codes res t) (hr : t.run = .running)
    {l : List Micro} (hs : t.todo = l) (hrun : u.run = t.run) (hres : u.res = t.res)
    (hcodes : endCodes u.todo ⊆ endCodes l) : EndsAmong codes res u := by
  subst hs
  obtain ⟨htres, htcodes⟩ := ht.left hr
  refine ⟨fun hready => ?_, fun _ => ⟨hres.trans htres, List.Subset.trans hcodes htcodes⟩⟩
  rw [hrun, hr] at hready
  cases hready

theorem EndsAmong.engineStep {codes : List Byte} {res : Byte} {t u : State} (ht : EndsAmong codes res t)
    (hr : t.run = .running) (h : engineStep t = .next u) : EndsAmong codes res u := by
  cases engineStep_effect h with
  | ends code hs hu =>
    subst hu
    have hcode : code ∈ endCodes t.todo := by
      rcases hs with ⟨hs, rfl⟩ | ⟨rest, hs⟩ <;> simp [hs, endCodes]
    exact ⟨fun _ => (ht.left hr).2 hcode, nofun⟩
  | drives m rest e hs he hu =>
    subst hu
    exact ht.on hr hs rfl rfl (endCodes_subset_cons (by rintro code rfl; cases he))
  | samplesDq rest hs hu =>
    subst hu
    exact ht.on hr hs rfl rfl (endCodes_subset_cons nofun)
  | samplesRb k rest td q hs hc hu =>
    subst hu
    exact ht.on hr hs rfl rfl (hc.endCodes_subset nofun)
  | readsClock m rest td q r a b hs hm hc hu =>
    subst hu
    exact ht.on hr hs rfl rfl (hc.endCodes_subset (by rintro code rfl; cases hm))
  | assigns m rest x r f hs hm hu =>
    subst hu
    exact ht.on hr hs rfl rfl (endCodes_subset_cons (by rintro code rfl; cases hm))

/-! ### The codes of each part of an operation -/

@[simp] theorem endCodes_idle (io : IdleOrder) (rest : List Micro) : endCodes (idleSteps io ++ rest) = endCodes rest := by
  induction io with
  | nil => rfl
  | cons a io ih =>
    rw [idleSteps, List.flatMap_cons, List.append_assoc]
    cases a <;> exact ih

@[simp] theorem endCodes_command (io : IdleOrder) (b : Byte) (rest : List Micro) :
    endCodes (commandSteps io b ++ rest) = endCodes rest := by
  rw [commandSteps, List.append_assoc]; exact endCodes_idle io rest

theorem endCodes_addressCycles (k : Nat) (bs : List Byte) (rest : List Micro) :
    endCodes (addressCycles k bs ++ rest) = endCodes rest := by
  induction bs generalizing k with
  | nil => rfl
  | cons b bs ih => rw [addressCycles, List.append_assoc]; exact ih _

@[simp] theorem endCodes_address (io : IdleOrder) (bs : List Byte) (rest : List Micro) :
    endCodes (addressSteps io bs ++ rest) = endCodes rest := by
  rw [addressSteps, List.append_assoc, List.append_assoc]
  exact (endCodes_addressCycles 0 bs _).trans (endCodes_idle io rest)

theorem endCodes_burst {body : Nat → List Micro} (h : ∀ k rest, endCodes (body k ++ rest) = endCodes rest) (k n : Nat)
    (rest : List Micro) : endCodes (burst body k n ++ rest) = endCodes rest := by
  induction n generalizing k with
  | zero => rfl
  | succ n ih => rw [burst, List.append_assoc, h, ih]

@[simp] theorem endCodes_dataIn (io : IdleOrder) (mode : Mode) (n : Nat) (rest : List Micro) :
    endCodes (dataInSteps io mode n ++ rest) = endCodes rest := by
  cases mode with
  | async =>
    have hburst := endCodes_burst (body := dataInAsync) (fun _ _ => rfl) 0 n
    simp [dataInSteps, hburst, endCodes]
  | toggle =>
    have hburst := endCodes_burst (body := dataInToggle) (fun _ _ => rfl) 0 n
    simp [dataInSteps, hburst, endCodes]

/-- The wait inside READ_DATA has no bound and so no code (R125). -/
@[simp] theorem endCodes_dataOut (io : IdleOrder) (tm : Timing) (mode : Mode) (n : Nat) (rest : List Micro) :
    endCodes (dataOutSteps io tm mode n ++ rest) = endCodes rest := by
  cases mode with
  | async =>
    have hburst := endCodes_burst (body := dataOutAsync) (fun _ _ => rfl) 0 n
    simp [dataOutSteps, hburst, endCodes, Poll.earlyCode]
  | toggle =>
    have hburst := endCodes_burst (body := dataOutToggle) (fun _ _ => rfl) 0 n
    simp [dataOutSteps, hburst, endCodes, Poll.earlyCode]

@[simp] theorem endCodes_delay (tm : Timing) (p : TimingParam) (rest : List Micro) :
    endCodes (delay tm p ++ rest) = endCodes rest := rfl

@[simp] theorem endCodes_busyWait (tm : Timing) (rest : List Micro) :
    endCodes (busyWaitSteps tm ++ rest) = endCodes rest := rfl

@[simp] theorem endCodes_changeColumn (io : IdleOrder) (tm : Timing) (col : List Byte) (rest : List Micro) :
    endCodes (changeColumnSteps io tm col ++ rest) = endCodes rest := by
  simp [changeColumnSteps]

@[simp] theorem endCodes_columnBytes (io : IdleOrder) (tm : Timing) (mode : Mode) (cc : BitVec 2) (k n : Nat)
    (rest : List Micro) : endCodes (burst (columnByteSteps io tm mode cc) k n ++ rest) = endCodes rest :=
  endCodes_burst (fun k rest => by simp [columnByteSteps]) k n rest

@[simp] theorem endCodes_readGo (io : IdleOrder) (pre00 : Bool) (addr : List Byte) (rest : List Micro) :
    endCodes (readGoSteps io pre00 addr ++ rest) = endCodes rest := by
  cases pre00 <;> simp [readGoSteps]

@[simp] theorem endCodes_programGo (io : IdleOrder) (tm : Timing) (mode : Mode) (addr : List Byte) (n : Nat) (k : Byte)
    (rest : List Micro) : endCodes (programGoSteps io tm mode addr n k ++ rest) = endCodes rest := by
  simp [programGoSteps]

@[simp] theorem endCodes_eraseGo (io : IdleOrder) (addr : List Byte) (rest : List Micro) :
    endCodes (eraseGoSteps io addr ++ rest) = endCodes rest := by
  simp [eraseGoSteps]

@[simp] theorem endCodes_abort (io : IdleOrder) (tm : Timing) (l : Word32) (rest : List Micro) :
    endCodes (abortSteps io tm l ++ rest) = endCodes rest := by
  simp [abortSteps, endCodes]

@[simp] theorem endCodes_status (io : IdleOrder) (tm : Timing) (mode : Mode) (rest : List Micro) :
    endCodes (statusSteps io tm mode ++ rest) = endCodes rest := by
  simp [statusSteps]

/-- The epilogue has no early path (R207). -/
@[simp] theorem endCodes_epilogue (io : IdleOrder) (tm : Timing) (mode : Mode) (raisedWp : Bool) (rest : List Micro) :
    endCodes (epilogueSteps io tm mode raisedWp ++ rest) = endCodes rest := by
  simp [epilogueSteps, endCodes]

/-- The guard of a timed operation can raise code 2 (R202, R206 (a)). -/
@[simp] theorem endCodes_prologue (raiseWp : Bool) (rest : List Micro) :
    endCodes (prologueSteps raiseWp ++ rest) = resDeviceNotResponding :: endCodes rest := by
  cases raiseWp <;> rfl

/-- A busy window that is never seen ends the operation with code 0 (R206 (b)). -/
@[simp] theorem endCodes_measureBusy (ta tc : Word64) (raisedWp : Bool) (rest : List Micro) :
    endCodes (measureBusySteps ta tc raisedWp ++ rest) = resOk :: endCodes rest := rfl

/-! ### The codes of each operation (O60) -/

/-- The codes an accepted operation can end with, one for each of its ends (R220). -/
def codesOf : Instr → List Byte
  | .waitReady (some _) => [resTimeout, resOk]
  | .measureBusy _ _ => [resOk, resOk]
  | .tRead _ _ _ _ _ _ _ | .tProgram _ _ _ _ _ _ | .tErase _ _ _ _ => [resDeviceNotResponding, resOk, resOk]
  | _ => [resOk]

theorem endCodes_stepsOf (i : Instr) (s : State) :
    endCodes (stepsOf i s ++ [.done resOk]) = codesOf i := by
  cases i with
  | waitReady limit => cases limit <;> rfl
  | enableErase | disableErase => rfl
  | readParameterPage jedec bytewise =>
    cases bytewise <;> simp [stepsOf, endCodes, codesOf]
  | pageRead a n c pre00 bytewise => cases bytewise <;> simp [stepsOf, endCodes, codesOf]
  | tRead a n c pre00 fetch ta tc => cases fetch <;> simp [stepsOf, endCodes, codesOf]
  | _ => simp [stepsOf, endCodes, codesOf]

/-- Code 2 is for the timed operations, code 7 for a WAIT_READY with a timeout (R222, R223). -/
theorem code_of_mem_codesOf {i : Instr} {code : Byte} (h : code ∈ codesOf i) :
    code = 0 ∨ (code = 2 ∧ i.family = .timed) ∨ (code = 7 ∧ ∃ limit, i = .waitReady (some limit)) := by
  cases i with
  | waitReady limit =>
    cases limit with
    | none => exact .inl (List.mem_singleton.1 h)
    | some limit =>
      rcases List.mem_pair.1 h with rfl | rfl
      · exact .inr (.inr ⟨rfl, limit, rfl⟩)
      · exact .inl rfl
  | measureBusy => exact .inl (by simpa [codesOf, resOk] using h)
  | tRead | tProgram | tErase =>
    rcases List.mem_cons.1 h with rfl | h
    · exact .inr (.inl ⟨rfl, rfl⟩)
    · exact .inl (by simpa [resOk] using h)
  | _ => exact .inl (List.mem_singleton.1 h)

/-- An operation of a READY block is refused with code 5, or accepted and bound for its own codes. -/
theorem exec_endsAmong {i : Instr} {s t : State} (h : exec i s = .next t) :
    (t.run = .ready ∧ t.res = resOutOfRange) ∨ EndsAmong (codesOf i) resOk t := by
  rw [exec_eq_request] at h
  obtain ⟨hr, ⟨-, rfl⟩ | ⟨-, ha⟩⟩ := request_cases h
  · exact .inl ⟨hr, rfl⟩
  · have hstart : EndsAmong (codesOf i) resOk (s.accept (stepsOf i s ++ [.done resOk])) :=
      ⟨nofun, fun _ => ⟨rfl, (endCodes_stepsOf i s) ▸ List.Subset.refl _⟩⟩
    exact .inr (drive_induction (fun hp hu => hp.engineStep (running_of_unsettled hu)) hstart ha)

/-- Settles O60: the codes of the steps of each operation, of which engine steps only take away. -/
theorem resultCodesByOperation : Obligations.ResultCodesByOperation := by
  refine ⟨fun i s t _ h => ?_, fun s t hr h => ?_⟩
  · rcases exec_endsAmong h with ⟨hready, hres⟩ | hends
    · exact ⟨fun _ => .inl hres, fun hrun => by simp [hready] at hrun⟩
    · refine ⟨fun hready => .inr (code_of_mem_codesOf (hends.exited hready)), fun hrun => ?_⟩
      obtain ⟨hres, hcodes⟩ := hends.left hrun
      exact ⟨hres, fun code hcode => code_of_mem_codesOf (hcodes hcode)⟩
  · have hstart : EndsAmong (endCodes s.todo) s.res s :=
      ⟨fun hready => by simp [hr] at hready, fun _ => ⟨rfl, List.Subset.refl _⟩⟩
    have hends : EndsAmong (endCodes s.todo) s.res t := resume_induction EndsAmong.engineStep hstart hr h
    exact ⟨hends.exited, fun hrun => ⟨(hends.left hrun).1, fun _ hcode => (hends.left hrun).2 hcode⟩⟩

end Sys2Proof.Machine
end

section
/-! PROOFS. Hangs (O56): an unbounded wait takes every sample of 0 there is and goes on waiting. -/

namespace Sys2Proof.Machine

/-! ### A wait that goes round -/

/-- The state after `k` samples of 0, the last of those scripted, by an unbounded wait. -/
def State.waited (k : Nat) (s : State) : State :=
  { s with trace := s.trace ++ List.replicate k (.rb false), env := { s.env with rb := [], rbN := s.env.rbN + k } }

/-- An unbounded wait takes a sample of 0 and is where it was, `S.SEQ` included (R27, R125, R128). -/
theorem engineStep_untilReady_busy {s : State} {rest : List Micro} {vs : List Level}
    (ht : s.todo = .pollRb .untilReady :: rest) (he : s.env.rb = false :: vs) :
    engineStep s = .next { s with
      trace := s.trace ++ [.rb false], env := { s.env with rb := vs, rbN := s.env.rbN + 1 } } := by
  have hn : State.nextRb { s with todo := rest } = false := State.nextRb_cons (s := { s with todo := rest }) he
  rw [engineStep_pollRb ht]
  rcases pollSample_cases .untilReady { s with todo := rest } with ⟨hw, -⟩ | ⟨-, -, hq⟩ | ⟨-, hb, -⟩
  · rw [hn] at hw; cases hw
  · rw [hq]
    simp only [State.sampleRb, State.emit, hn, he, List.tail_cons, Event.onPins, ← ht]
  · exact absurd rfl hb

/-- With samples of 0 only, the engine stays in the wait until none is left. -/
theorem Path.waited {s : State} {rest : List Micro} {k : Nat} (hr : s.run = .running)
    (ht : s.todo = .pollRb .untilReady :: rest) (he : s.env.rb = List.replicate k false) : Path s (s.waited k) := by
  induction k generalizing s with
  | zero =>
    have henv : ({ s.env with rb := [] } : Environment) = s.env := by rw [show [] = s.env.rb from he.symm]
    have hs : s.waited 0 = s := by
      simp only [State.waited, List.replicate_zero, List.append_nil, Nat.add_zero, henv]
    rw [hs]
    exact .refl s
  | succ k ih =>
    have he' : s.env.rb = false :: List.replicate k false := he
    let u : State := { s with
      trace := s.trace ++ [.rb false], env := { s.env with rb := List.replicate k false, rbN := s.env.rbN + 1 } }
    have hu : u.waited k = s.waited (k + 1) := by
      simp [u, State.waited, List.replicate_succ, Nat.add_assoc, Nat.add_comm 1]
    exact .step (unsettled_of_script hr he') (engineStep_untilReady_busy ht he') (hu ▸ ih (s := u) hr ht rfl)

/-- A wait with no scripted sample left is where the block settles (log 1). -/
theorem State.waited_settled {s : State} {rest : List Micro} (ht : s.todo = .pollRb .untilReady :: rest) (k : Nat) :
    (s.waited k).settled = true := by
  simp [State.settled, State.waited, ht, atRbSample]

/-! ### Operations that hang -/

/-- An operation inside its ranges that comes to an unbounded wait, with samples of 0 only to come, stays in it. -/
theorem exec_hangs {i : Instr} {s u : State} {rest : List Micro} {k : Nat} (hr : s.run = .ready) (hsl : s.slice = none)
    (hi : i.wellFormed s.mode s.maxBurst = true) (hpath : Path (s.accept (stepsOf i s ++ [.done resOk])) u)
    (hrun : u.run = .running) (ht : u.todo = .pollRb .untilReady :: rest) (he : u.env.rb = List.replicate k false) :
    exec i s = .next (u.waited k) := by
  rw [exec_eq_request, request_accept hr ((checksOf_pass_iff i s).2 hi)]
  exact (hpath.trans (.waited hrun ht he)).settle (State.waited_settled ht k) hsl

/-- A waiting loop given one more sample of 0 takes it and waits on, whatever the slice (R236). -/
theorem resume_waits {s : State} {rest : List Micro} (ht : s.todo = .pollRb .untilReady :: rest)
    (he : s.env.rb = [false]) : resume s = .next (s.waited 1) := by
  rw [resume, engineStep_untilReady_busy ht he]
  exact drive_settled (State.waited_settled ht 1) _

/-- READ_DATA turns DQ to inputs and comes to its ready wait (R125). -/
theorem Path.dataOutWait {io : IdleOrder} {tm : Timing} {mode : Mode} {n : Nat} {more : List Micro} {s : State}
    (hr : s.run = .running) (ht : s.todo = dataOutSteps io tm mode n ++ more) :
    ∃ rest, Path s (({ s with todo := .pollRb .untilReady :: rest }).emit (.dirDQ .inp)) :=
  ⟨_, .step (unsettled_of_entry hr ht rfl) (engineStep_event ht rfl) (.refl _)⟩

/-- Settles O56: WAIT_READY is at its wait when accepted, READ_DATA after its first event; both take every sample of 0 and
stay RUNNING (R236). -/
theorem hangKeepsWaiting : Obligations.HangKeepsWaiting := by
  refine ⟨fun s k ⟨hr, _, _, _, hsl⟩ he => ⟨?_, fun c hc => ?_⟩, fun s rest _ ht he => resume_waits ht he⟩
  · exact ⟨_, exec_hangs (i := .waitReady none) hr hsl rfl (.refl _) rfl rfl he, rfl, rfl, rfl, rfl, rfl⟩
  · obtain ⟨rest, hpath⟩ := Path.dataOutWait (s := s.accept (stepsOf (.readData c) s ++ [.done resOk])) rfl rfl
    have hi : (Instr.readData c).wellFormed s.mode s.maxBurst = true := by
      simpa [Instr.wellFormed, WellFormed.count] using hc
    have hexec := exec_hangs (i := .readData c) hr hsl hi hpath rfl rfl he
    exact ⟨_, hexec, rfl, rfl, rfl, List.append_assoc s.trace [.dirDQ .inp] _, rfl, rfl⟩

end Sys2Proof.Machine
end

section
/-! PROOFS. The host's moves and the block (O9 to O11): a READY block without a move waits, a RUNNING block goes on and
leaves the host's side alone, `BLOCK_RESET` is taken at any time. -/

namespace Sys2Proof.Machine

/-! ### Going on with slice 0 (log 1) -/

theorem settle_of_slice_zero {s : State} (hs : s.slice = some 0) : s.settle = .next s := by
  rw [State.settle, State.fuel, hs]; rfl

/-- With slice 0 going on is one engine step: it keeps the slice, so nothing is left for settling to do. -/
theorem resume_of_slice_zero {s : State} (hs : s.slice = some 0) : resume s = engineStep s := by
  unfold resume
  split
  · next t he =>
    obtain ⟨_, _, _, _, _, hslice, _⟩ := engineStep_hostSideKept he
    rw [he, settle_of_slice_zero (hslice.trans hs)]
  · next r he => exact he.symm
  · next r he => exact he.symm

/-- A running operation that goes on, for however many engine steps, leaves the host's side alone (R74, R262). -/
theorem resume_hostSideKept {s t : State} (hr : s.run = .running) (h : resume s = .next t) : HostSideKept s t :=
  resume_induction (P := HostSideKept s) (fun hk _ he => hk.trans (engineStep_hostSideKept he))
    ⟨rfl, rfl, rfl, rfl, rfl, rfl, rfl⟩ hr h

/-! ### READY, RUNNING and `BLOCK_RESET` (R250, R252, R262) -/

/-- Settles O9: with no move in the queue `step` leaves a READY block as it is. -/
theorem readyBlockWaitsForTheHost : Obligations.ReadyBlockWaitsForTheHost :=
  fun _ hr hhost => step_waits hr hhost

/-- Settles O10: the step is the operation going on, and what every engine step keeps, going on keeps. -/
theorem runningBlockTakesNoRequest : Obligations.RunningBlockTakesNoRequest := by
  intro s hr hnoReset
  have hstep : step s = resume s := step_running hr fun rest hhost => hnoReset (by rw [hhost, List.head?_cons])
  exact ⟨hstep, fun hs => hstep.trans (resume_of_slice_zero hs),
    fun t ht => resume_hostSideKept hr (hstep.symm.trans ht)⟩

/-- Settles O11: `BLOCK_RESET` is taken whatever the block was doing, and each field is by definition its reset value or
the one it had. -/
theorem blockResetFromAnyState : Obligations.BlockResetFromAnyState := by
  intro s rest hhost
  refine ⟨({ s with host := rest }).blockReset, step_blockReset hhost, ?run, ?seq, ?idx, ?todo, ?pins, ?opnd, ?res,
    ?rxlen, ⟨?record, ?fetched⟩, ?mode, ?timing, ?maxBurst, ?idleOrder, ?clkLast, ?trace, ?env, ?slice, ?host⟩ <;> rfl

end Sys2Proof.Machine
end
